-- ==== Sys2Proof/Word.lean ====
section
/-! DEFINITION. The word types of the block. -/

namespace Sys2Proof

/-- One queue element, one operand byte (00_scope R7: 8 bits, PRESUMED, log 16). -/
abbrev Byte := BitVec 8

/-- An operation word or a response word (30_encoding R70, R80: 16 bits, never split into bytes, 20_memory R53). -/
abbrev Word := BitVec 16

/-- A queue register, `head` or `count`: `W` = 8 bits (00_scope R7, 10_state R34). -/
abbrev QReg := BitVec 8

end Sys2Proof
end

