-- ==== Sys2Proof/Syntax.lean ====
section
/-! DEFINITION. The twelve operations of the block, as data. -/

namespace Sys2Proof

/-- A channel (00_scope R3, D5). -/
inductive Chan
  /-- channel 0, serial-async -/
  | c0
  /-- channel 1, serial-sync -/
  | c1
deriving DecidableEq, Repr

/-- The other channel: relay wiring sends a byte there (43_receive_dispatch R144). -/
def Chan.other : Chan → Chan
  | .c0 => .c1
  | .c1 => .c0

/-- The channel's number, as the `CH` field holds it (30_encoding R75). -/
def Chan.num : Chan → Nat
  | .c0 => 0
  | .c1 => 1

/-- The operations, one constructor per row of the opcode table (30_encoding R76). -/
inductive Instr
  /-- do nothing (44 R153) -/
  | nop
  /-- enqueue a byte, without arming (40 R101) -/
  | push (ch : Chan) (b : Byte)
  /-- dequeue the oldest byte (40 R102) -/
  | pop (ch : Chan)
  /-- read the number of occupied slots (40 R103) -/
  | size (ch : Chan)
  /-- hand a byte to the channel for transmission (41 R121) -/
  | xmit (ch : Chan) (b : Byte)
  /-- one invocation of the channel's consumer (42 R131) -/
  | txc (ch : Chan)
  /-- one invocation of the channel's receive handler (43 R141) -/
  | rxd (ch : Chan)
  /-- one invocation of the shared transmit handler (42 R132) -/
  | txvec
  /-- one invocation of the shared receive handler (43 R142) -/
  | rxvec
  /-- environment: the peripheral has shifted its byte out (44 R151) -/
  | txdone (ch : Chan)
  /-- environment: a byte has arrived (44 R152) -/
  | rxarr (ch : Chan) (b : Byte)
  /-- put the whole machine in its reset state (70 R191) -/
  | reset
deriving DecidableEq, Repr

/-- The operand formats of the operation word (30_encoding R72 to R74). -/
inductive Format
  /-- no operand -/
  | z
  /-- channel operand -/
  | c
  /-- channel and data operands -/
  | cd
deriving DecidableEq, Repr

/-- The names of the twelve operations (30_encoding R76, R86). -/
inductive Mnemonic
  | NOP | PUSH | POP | SIZE | XMIT | TXC | RXD | TXVEC | RXVEC | TXDONE | RXARR | RESET
deriving DecidableEq, Repr

/-- The format of each row of the opcode map (30_encoding R76). -/
def Mnemonic.format : Mnemonic → Format
  | .NOP => .z
  | .PUSH => .cd
  | .POP => .c
  | .SIZE => .c
  | .XMIT => .cd
  | .TXC => .c
  | .RXD => .c
  | .TXVEC => .z
  | .RXVEC => .z
  | .TXDONE => .c
  | .RXARR => .cd
  | .RESET => .z

/-- The row an operation belongs to. -/
def Instr.mnemonic : Instr → Mnemonic
  | .nop => .NOP
  | .push _ _ => .PUSH
  | .pop _ => .POP
  | .size _ => .SIZE
  | .xmit _ _ => .XMIT
  | .txc _ => .TXC
  | .rxd _ => .RXD
  | .txvec => .TXVEC
  | .rxvec => .RXVEC
  | .txdone _ => .TXDONE
  | .rxarr _ _ => .RXARR
  | .reset => .RESET

end Sys2Proof
end

