-- ==== Sys2Proof/Config.lean ====
section
/-! DEFINITION. The build-time parameters of the block and the values the spec leaves free. -/

namespace Sys2Proof

/-- The overflow policy `OVF_MODE` (00_scope R7, 41 R122, R123). -/
inductive OvfMode
  /-- the reference behaviour: an overflow halts the machine -/
  | failstop
  /-- an overflow is answered and recorded, and the machine goes on -/
  | report
deriving DecidableEq, Repr

/-- The build-time parameters of 00_scope R7 that are open. They are fixed for a run: no operation
writes them (10_state R41). The capacity is held as the last cell index, so that every value of the type
meets the build contract `1 ≤ C ≤ 255` of R8 and no other configuration can be written down (U5). -/
structure Params where
  /-- `C - 1`, the highest cell index of a storage -/
  lastIndex : Fin 255
  /-- `OVF_MODE` -/
  ovfMode : OvfMode
  /-- `ROUTE[0]` -/
  route0 : Chan
  /-- `ROUTE[1]` -/
  route1 : Chan
  /-- `SHARED_VEC`: the arbiter starts TXVEC and RXVEC instead of TXC and RXD (60 R167) -/
  sharedVec : Bool
deriving DecidableEq, Repr

/-- The capacity `C` of each ByteQueue (00_scope R7). -/
def Params.C (p : Params) : Nat := p.lastIndex.val + 1

/-- `ROUTE`: the channel on which a byte received on `ch` is transmitted (43 R144). -/
def Params.route (p : Params) : Chan → Chan
  | .c0 => p.route0
  | .c1 => p.route1

/-- The parameters `State.reset` carries. DESIGN CHOICE (log 1), unsafe: the spec leaves them open; the capacity
is the one of its examples, the policy its stated default, the wiring the echo of its test vectors, the shared
vectors those of its reference design. Statements quantify over every `Params` instead. -/
def Params.reference : Params :=
  { lastIndex := 3, ovfMode := .failstop, route0 := .c0, route1 := .c1, sharedVec := true }

/-- `NCH`, the number of channels (00_scope R7). -/
def Config.channelCount : Nat := 2

/-- `W`, the width of `head` and `count` (00_scope R7). -/
def Config.indexWidth : Nat := 8

/-- `TXFLAG_RESET` (00_scope R7, D8). -/
def Config.txflagReset : Bool := true

/-- The cause code of QueueOverflow, the only exception (60 R161). -/
def Config.queueOverflowCause : Nat := 1

/-- FREE (44 R152, U3; log 4): on the n-th free choice, whether a byte that arrives on an unread receive
register replaces the old byte. -/
opaque Config.overrunTakesNew : Nat → Bool

/-- FREE (70 R191, U2; log 3): what a receive register holds after RESET. -/
opaque Config.rxbufAfterReset : Nat → Byte

/-- FREE (60 R168; log 6): the arbiter's choice at an edge for which the input stream holds nothing. -/
opaque Config.arbiterChoice : Nat → Nat

end Sys2Proof
end

