-- ==== Sys2Proof/WellFormed.lean ====
section
/-! DEFINITION. What is checked before anything runs: the operands of a written operation and the build-time
contract. `Instr` and `Params` admit no ill-formed value, so the checks stand on the raw forms that come before them. -/

namespace Sys2Proof

/-- An operation as it is written down (30_encoding R86): a name and numbers not yet checked. -/
structure RawInstr where
  name : Mnemonic
  ch : Option Nat
  data : Option Nat
deriving DecidableEq, Repr

/-- A channel operand is 0 or 1 (30_encoding R75, R86). -/
def Chan.ofNat? : Nat → Option Chan
  | 0 => some .c0
  | 1 => some .c1
  | _ => none

/-- A data operand is a number 0 to 255 (30_encoding R75, R86). -/
def Byte.ofNat? (n : Nat) : Option Byte := if n < 256 then some (BitVec.ofNat 8 n) else none

/-- The operation a raw form stands for: exactly the operands its format asks for, each in range. -/
def RawInstr.toInstr? (r : RawInstr) : Option Instr :=
  match r.name, r.ch, r.data with
  | .NOP, none, none => some .nop
  | .PUSH, some c, some d => do return .push (← Chan.ofNat? c) (← Byte.ofNat? d)
  | .POP, some c, none => do return .pop (← Chan.ofNat? c)
  | .SIZE, some c, none => do return .size (← Chan.ofNat? c)
  | .XMIT, some c, some d => do return .xmit (← Chan.ofNat? c) (← Byte.ofNat? d)
  | .TXC, some c, none => do return .txc (← Chan.ofNat? c)
  | .RXD, some c, none => do return .rxd (← Chan.ofNat? c)
  | .TXVEC, none, none => some .txvec
  | .RXVEC, none, none => some .rxvec
  | .TXDONE, some c, none => do return .txdone (← Chan.ofNat? c)
  | .RXARR, some c, some d => do return .rxarr (← Chan.ofNat? c) (← Byte.ofNat? d)
  | .RESET, none, none => some .reset
  | _, _, _ => none

/-- The raw form is well-formed. -/
def RawInstr.wf (r : RawInstr) : Bool :=
  let chOk := match r.ch with
    | some c => decide (c < 2)
    | none => true
  let dataOk := match r.data with
    | some d => decide (d < 256)
    | none => true
  let shapeOk := match r.name.format with
    | .z => r.ch.isNone && r.data.isNone
    | .c => r.ch.isSome && r.data.isNone
    | .cd => r.ch.isSome && r.data.isSome
  shapeOk && chOk && dataOk

/-- The raw form an operation is written as. -/
def Instr.toRaw (i : Instr) : RawInstr :=
  match i with
  | .nop => ⟨.NOP, none, none⟩
  | .push c b => ⟨.PUSH, some c.num, some b.toNat⟩
  | .pop c => ⟨.POP, some c.num, none⟩
  | .size c => ⟨.SIZE, some c.num, none⟩
  | .xmit c b => ⟨.XMIT, some c.num, some b.toNat⟩
  | .txc c => ⟨.TXC, some c.num, none⟩
  | .rxd c => ⟨.RXD, some c.num, none⟩
  | .txvec => ⟨.TXVEC, none, none⟩
  | .rxvec => ⟨.RXVEC, none, none⟩
  | .txdone c => ⟨.TXDONE, some c.num, none⟩
  | .rxarr c b => ⟨.RXARR, some c.num, some b.toNat⟩
  | .reset => ⟨.RESET, none, none⟩

/-- An operation is well-formed when its written form is; every `Instr` is (`Laws.RawForm`). -/
def Instr.wf (i : Instr) : Bool := i.toRaw.wf

/-- A configuration as someone asks for it, the capacity not yet checked. -/
structure RawParams where
  capacity : Nat
  ovfMode : OvfMode
  route0 : Chan
  route1 : Chan
  sharedVec : Bool
deriving DecidableEq, Repr

/-- The build-time contract `1 ≤ C` and `C < 2 ^ W` (00_scope R8, 70 R206). -/
def RawParams.wf (r : RawParams) : Bool :=
  decide (1 ≤ r.capacity) && decide (r.capacity < 2 ^ Config.indexWidth)

/-- The configuration, or `none`: a model refuses to be instantiated outside the contract (R8, U5). -/
def RawParams.build? (r : RawParams) : Option Params :=
  if h : 1 ≤ r.capacity ∧ r.capacity < 256 then
    some { lastIndex := ⟨r.capacity - 1, by omega⟩, ovfMode := r.ovfMode, route0 := r.route0,
           route1 := r.route1, sharedVec := r.sharedVec }
  else none

end Sys2Proof
end

