-- ==== Sys2Proof/Decode.lean ====
section
/-! DEFINITION. The decoder, total on all 16-bit words and rejecting by name, the opcode map it agrees with, and
the encoder. -/

namespace Sys2Proof

/-- Why a word is no operation (30_encoding R77). -/
inductive Illegal
  /-- a bit of `RSV` (11:9) is set -/
  | reservedBits
  /-- `OPC` is 0xB to 0xE -/
  | reservedOpcode
  /-- `DATA` is non-zero in a format C or Z word -/
  | strayData
  /-- `CH` is 1 in a format Z word -/
  | strayChannel
deriving DecidableEq, Repr

/-- What a word decodes to. -/
inductive Decoded
  | op (i : Instr)
  | illegal (why : Illegal)
deriving DecidableEq, Repr

/-- `OPC`, bits 15:12 (30_encoding R71). -/
def opcOf (w : Word) : Nat := (w.extractLsb' 12 4).toNat

/-- `RSV`, bits 11:9. -/
def rsvOf (w : Word) : BitVec 3 := w.extractLsb' 9 3

/-- `CH`, bit 8. -/
def chOf (w : Word) : Chan := if w.getLsbD 8 then .c1 else .c0

/-- `DATA`, bits 7:0. -/
def dataOf (w : Word) : Byte := w.extractLsb' 0 8

/-- A format Z word: `CH` and `DATA` must be zero (30_encoding R72). -/
def formatZ (i : Instr) (ch : Chan) (d : Byte) : Decoded :=
  if ch = .c1 then .illegal .strayChannel else if d = 0 then .op i else .illegal .strayData

/-- A format C word: `DATA` must be zero (30_encoding R73). -/
def formatC (k : Chan → Instr) (ch : Chan) (d : Byte) : Decoded :=
  if d = 0 then .op (k ch) else .illegal .strayData

/-- A format CD word: both operands as they stand (30_encoding R74, R75). -/
def formatCD (k : Chan → Byte → Instr) (ch : Chan) (d : Byte) : Decoded := .op (k ch d)

/-- The operation code of each row (30_encoding R76). -/
def Mnemonic.opc : Mnemonic → Nat
  | .NOP => 0x0
  | .PUSH => 0x1
  | .POP => 0x2
  | .SIZE => 0x3
  | .XMIT => 0x4
  | .TXC => 0x5
  | .RXD => 0x6
  | .TXVEC => 0x7
  | .RXVEC => 0x8
  | .TXDONE => 0x9
  | .RXARR => 0xA
  | .RESET => 0xF

/-- The twelve rows, in the order of the opcode map. -/
def mnemonics : List Mnemonic :=
  [.NOP, .PUSH, .POP, .SIZE, .XMIT, .TXC, .RXD, .TXVEC, .RXVEC, .TXDONE, .RXARR, .RESET]

/-- The row of an operation code; none for 0xB to 0xE (30_encoding R76, R77). -/
def mnemonicOf (opc : Nat) : Option Mnemonic := mnemonics.find? (fun m => m.opc == opc)

/-- The operation of a row with these operand fields, checked against the row's format (30_encoding R76). -/
def operationOf (m : Mnemonic) (ch : Chan) (d : Byte) : Decoded :=
  match m with
  | .NOP => formatZ .nop ch d
  | .PUSH => formatCD .push ch d
  | .POP => formatC .pop ch d
  | .SIZE => formatC .size ch d
  | .XMIT => formatCD .xmit ch d
  | .TXC => formatC .txc ch d
  | .RXD => formatC .rxd ch d
  | .TXVEC => formatZ .txvec ch d
  | .RXVEC => formatZ .rxvec ch d
  | .TXDONE => formatC .txdone ch d
  | .RXARR => formatCD .rxarr ch d
  | .RESET => formatZ .reset ch d

/-- The decoder of 30_encoding R88. -/
def decode (w : Word) : Decoded :=
  if rsvOf w = 0 then
    match mnemonicOf (opcOf w) with
    | some m => operationOf m (chOf w) (dataOf w)
    | none => .illegal .reservedOpcode
  else .illegal .reservedBits

/-- The operation a word decodes to, if it is one. -/
def Decoded.instr? : Decoded → Option Instr
  | .op i => some i
  | .illegal _ => none

/-- A word whose bits are the low `nbits` bits of `w`, every bit above them 0. A word has one length, 16 bits
(30_encoding R70); `none` where more is asked for (log 20). -/
def tableWord? (nbits w : Nat) : Option Word :=
  if nbits ≤ 16 then some (BitVec.ofNat 16 (w % 2 ^ nbits)) else none

/-- The operation the decoder reads from an instruction of `nbits` bits. The word travels on 16 parallel wires,
so no byte order is involved (20_memory R53). -/
def decodeTableWord (nbits w : Nat) : Option Instr :=
  match tableWord? nbits w with
  | some v => (decode v).instr?
  | none => none

/-- One row of the opcode map: a word `w` selects it when `w AND mask == match` (30_encoding R76). -/
structure OpcodeRow where
  name : Mnemonic
  pattern : Word
  mask : Word
deriving DecidableEq, Repr

/-- The opcode map of 30_encoding R76. -/
def opcodeMap : List OpcodeRow :=
  [⟨.NOP, 0x0000, 0xFFFF⟩, ⟨.PUSH, 0x1000, 0xFE00⟩, ⟨.POP, 0x2000, 0xFEFF⟩, ⟨.SIZE, 0x3000, 0xFEFF⟩,
   ⟨.XMIT, 0x4000, 0xFE00⟩, ⟨.TXC, 0x5000, 0xFEFF⟩, ⟨.RXD, 0x6000, 0xFEFF⟩, ⟨.TXVEC, 0x7000, 0xFFFF⟩,
   ⟨.RXVEC, 0x8000, 0xFFFF⟩, ⟨.TXDONE, 0x9000, 0xFEFF⟩, ⟨.RXARR, 0xA000, 0xFE00⟩, ⟨.RESET, 0xF000, 0xFFFF⟩]

/-- The word selects the row. -/
def OpcodeRow.selects (r : OpcodeRow) (w : Word) : Bool := w &&& r.mask == r.pattern

/-- `(OPC << 12) OR (ch << 8) OR d` (30_encoding R88). -/
def packWord (opc : Nat) (ch : Chan) (d : Byte) : Word :=
  (BitVec.ofNat 16 opc <<< 12) ||| (BitVec.ofNat 16 ch.num <<< 8) ||| d.setWidth 16

/-- The encoder of 30_encoding R88, absent operands zero. -/
def encode (i : Instr) : Word :=
  match i with
  | .nop => packWord Mnemonic.NOP.opc .c0 0
  | .push c b => packWord Mnemonic.PUSH.opc c b
  | .pop c => packWord Mnemonic.POP.opc c 0
  | .size c => packWord Mnemonic.SIZE.opc c 0
  | .xmit c b => packWord Mnemonic.XMIT.opc c b
  | .txc c => packWord Mnemonic.TXC.opc c 0
  | .rxd c => packWord Mnemonic.RXD.opc c 0
  | .txvec => packWord Mnemonic.TXVEC.opc .c0 0
  | .rxvec => packWord Mnemonic.RXVEC.opc .c0 0
  | .txdone c => packWord Mnemonic.TXDONE.opc c 0
  | .rxarr c b => packWord Mnemonic.RXARR.opc c b
  | .reset => packWord Mnemonic.RESET.opc .c0 0

end Sys2Proof
end

