-- ==== Sys2Proof/Machine/State.lean ====
section
/-! DEFINITION. The state of the machine as plain data, its inputs, the responses, the reasons it can stop, and
the state after reset. -/

namespace Sys2Proof.Machine

/-- What an operation answers (30_encoding R81). -/
inductive Response
  /-- the operation was performed and has no result -/
  | done
  /-- the byte was queued -/
  | accept
  /-- PUSH found the queue full -/
  | reject
  /-- a byte was dequeued -/
  | some (v : Byte)
  /-- the queue was empty -/
  | none
  /-- the number of occupied slots -/
  | count (n : QReg)
  /-- the QueueOverflow error -/
  | overflow
  /-- the word is no operation -/
  | illegal
  /-- the machine is halted; nothing was done -/
  | halted
  /-- a block-started operation was named while not enabled; nothing was done -/
  | notReady
deriving DecidableEq, Repr

/-- The storage of one queue: the written cells, as (index, byte), indices strictly rising. A cell that is not
listed is unwritten and holds no value (10_state R21, R40, 20_memory R58). -/
abbrev Storage := List Host.Cell

/-- The state of one channel (10_state R20). -/
structure Channel where
  /-- the queue's cells (R21) -/
  storage : Storage
  /-- index of the next element to dequeue (R22) -/
  head : QReg
  /-- number of occupied slots (R24) -/
  count : QReg
  /-- interrupt-enable bit: the transmit-complete interrupt is armed (R26) -/
  txIe : Bool
  /-- sticky overflow flag (R27) -/
  ovf : Bool
  /-- the peripheral can take a byte; its completion event is pending (R28) -/
  txflag : Bool
  /-- a received byte has not been read (R29) -/
  rxflag : Bool
  /-- the receive register (R29) -/
  rxbuf : Byte
  /-- the bytes written to the transmit register since reset, oldest first (R32) -/
  txlog : List Byte
deriving DecidableEq, Repr

/-- What is sampled at one rising clock edge (30_encoding R83), and what the arbiter chooses there (R84). -/
structure Edge where
  /-- pin `rst` -/
  rst : Bool
  /-- pins `cmd_valid` and `cmd` -/
  cmd : Option Word
  /-- pin `tx_done[0]` -/
  txDone0 : Bool
  /-- pin `tx_done[1]` -/
  txDone1 : Bool
  /-- pins `rx_valid[0]` and `rx_data[0]` -/
  rx0 : Option Byte
  /-- pins `rx_valid[1]` and `rx_data[1]` -/
  rx1 : Option Byte
  /-- `ARB`'s choice: the position in the list of what can be served, counted around it (60 R168; log 9) -/
  grant : Nat
deriving DecidableEq, Repr

/-- One item of the input stream (10_state R41). -/
inductive Input
  /-- a trace names this word: the operation is executed at this step (30 R70, R84) -/
  | word (w : Word)
  /-- one clock edge of the port model (30 R83) -/
  | edge (e : Edge)
deriving DecidableEq, Repr

/-- The machine: the tuple of 10_state R20, the build-time parameters (00_scope R7), and five fields of the model's
own that stand for what goes in and comes out. -/
structure State where
  /-- the build-time parameters; no operation writes them (10_state R41; log 1) -/
  params : Params
  /-- channel 0, serial-async -/
  ch0 : Channel
  /-- channel 1, serial-sync -/
  ch1 : Channel
  /-- the fail-stop bit (10_state R30); the global interrupt enable is its negation (60 R166) -/
  halt : Bool
  /-- the model's own: the response of the last operation (30 R80; log 7) -/
  rsp : Option Response
  /-- the model's own: pins `rsp_valid` and `rsp` (30 R83; log 7) -/
  portRsp : Option Response
  /-- the model's own: the command word still presented (30 R84; log 8) -/
  cmdHeld : Option Word
  /-- the model's own: what reaches the block at the coming steps (10_state R41; log 6) -/
  inputs : List Input
  /-- the model's own: numbers the free choices (log 5) -/
  free : Nat
deriving DecidableEq, Repr

/-- Why a step stops. None is raised from a state that meets `StateInv` but the last, which is the environment's. -/
inductive Fault
  /-- A storage cell that no push has written was read (20_memory R58, U1): raised by the queue read inside POP, TXC
  and TXVEC. Safe: the hardware returns some byte there. -/
  | unwrittenCell (ch : Chan) (index : Nat)
  /-- A cell index not below `C` was read, which no storage has (20_memory R50, R54): raised as above. Safe. -/
  | noSuchCell (ch : Chan) (index : Nat)
  /-- The receive register was read with nothing pending (10_state R40, U2): raised by `readRx`, which every caller
  calls with the flag set. Safe. -/
  | nothingReceived (ch : Chan)
  /-- The transmit register was written while the peripheral was busy (70 R205, U4): raised by `writeTx`, which every
  caller calls with the flag set. Safe. -/
  | transmitterBusy (ch : Chan)
  /-- The environment pulsed `tx_done` at the edge where the byte was handed over, which it never does
  (30_encoding R85): raised at a clock edge only. Safe if the environment keeps to R85 (log 10). -/
  | completedAtWrite (ch : Chan)
deriving DecidableEq, Repr

/-- Why a step has no meaning. -/
inductive Refusal
  /-- The instruction has no meaning in the model yet: raised by an arm of `exec`. Safe. No arm raises it. -/
  | notModelled (mnemonic : String)
deriving DecidableEq, Repr

/-- The state after reset of one channel, its receive register holding `rx` (10_state R40). -/
def Channel.resetWith (rx : Byte) : Channel :=
  { storage := [], head := 0, count := 0, txIe := false, ovf := false, txflag := Config.txflagReset,
    rxflag := false, rxbuf := rx, txlog := [] }

/-- The machine right after reset, for each configuration (10_state R40). DESIGN CHOICE, unsafe: the receive
registers hold 0, which the spec leaves unspecified (log 2); nothing has been answered, presented or put
into the input stream (logs 6, 7, 8), and the counter of free choices is 0 (log 5). -/
def State.resetOf (p : Params) : State :=
  { params := p, ch0 := Channel.resetWith 0, ch1 := Channel.resetWith 0, halt := false, rsp := none,
    portRsp := none, cmdHeld := none, inputs := [], free := 0 }

/-- The machine right after reset, of the configuration the log names (log 1). -/
def State.reset : State := State.resetOf Params.reference

end Sys2Proof.Machine
end

