-- ==== Sys2Proof/Machine/Ops.lean ====
section
/-! DEFINITION. The named operations over storage and registers (00_scope R10), and the taking of QueueOverflow.
There is no return from it: only reset leaves the halted state (60 R173). -/

namespace Sys2Proof.Machine

/-- The channel's state. -/
def State.chan (s : State) : Chan → Channel
  | .c0 => s.ch0
  | .c1 => s.ch1

/-- The machine with one channel's state replaced. -/
def State.setChan (s : State) (ch : Chan) (x : Channel) : State :=
  match ch with
  | .c0 => { s with ch0 := x }
  | .c1 => { s with ch1 := x }

/-- The operation yields its response (30_encoding R80). -/
def State.respond (s : State) (r : Response) : State := { s with rsp := Option.some r }

/-- The machine with `halt` replaced. -/
def State.setHalt (s : State) (h : Bool) : State := { s with halt := h }

/-- The machine with the counter of free choices replaced (log 5). -/
def State.setFree (s : State) (n : Nat) : State := { s with free := n }

/-- The machine with the input stream replaced (log 6). -/
def State.setInputs (s : State) (l : List Input) : State := { s with inputs := l }

/-- The machine with the presented command word and the response pins replaced (logs 7, 8). -/
def State.setPort (s : State) (held : Option Word) (pins : Option Response) : State :=
  { s with cmdHeld := held, portRsp := pins }

/-- The byte in a cell; an unlisted cell is unwritten and holds none (20_memory R58). -/
def Storage.read (m : Storage) (i : Nat) : Option Byte :=
  match m with
  | [] => none
  | (j, v) :: rest => if i = j then some v else Storage.read rest i

/-- The storage with one cell written. -/
def Storage.write (m : Storage) (i : Nat) (v : Byte) : Storage :=
  match m with
  | [] => [(i, v)]
  | (j, u) :: rest =>
    if i < j then (i, v) :: (j, u) :: rest
    else if i = j then (i, v) :: rest
    else (j, u) :: Storage.write rest i v

/-- The indices rise strictly from `lo` on. -/
def Storage.risesFrom (lo : Nat) (m : Storage) : Bool :=
  match m with
  | [] => true
  | (j, _) :: rest => decide (lo ≤ j) && Storage.risesFrom (j + 1) rest

/-- The canonical form: indices strictly rising. An unlisted cell reads as no byte, so no entry equals it. -/
def Memory.wf (m : Storage) : Bool := Storage.risesFrom 0 m

/-- Every listed index is a cell of a storage of `C` cells (20_memory R50). -/
def Storage.within (C : Nat) (m : Storage) : Bool := m.all (fun c => decide (c.1 < C))

/-- The insert position `(head + count) mod C`, the sum not truncated (10_state R23, 40 R106). -/
def State.tail (s : State) (ch : Chan) : Nat :=
  ((s.chan ch).head.toNat + (s.chan ch).count.toNat) % s.params.C

/-- `MemRead(ch, i)` (00_scope R10). -/
def memRead (s : State) (ch : Chan) (i : Nat) : Except Fault Byte :=
  if i < s.params.C then
    match Storage.read (s.chan ch).storage i with
    | some v => .ok v
    | none => .error (.unwrittenCell ch i)
  else .error (.noSuchCell ch i)

/-- `MemWrite(ch, i, v)` (00_scope R10); its one caller gives `tail`, which is below `C` (log 19). -/
def memWrite (s : State) (ch : Chan) (i : Nat) (v : Byte) : State :=
  s.setChan ch { s.chan ch with storage := Storage.write (s.chan ch).storage i v }

/-- The inner function `push` (40 R101): `none` when it returns false, the queue then untouched. -/
def push (ch : Chan) (b : Byte) (s : State) : Option State :=
  if (s.chan ch).count.toNat = s.params.C then none
  else
    let t := memWrite s ch (s.tail ch) b
    some (t.setChan ch { t.chan ch with count := BitVec.ofNat 8 ((s.chan ch).count.toNat + 1) })

/-- The inner function `pop` (40 R102): the byte, if there was one, and the state after. The cell keeps
its byte (R109; log 14). -/
def pop (ch : Chan) (s : State) : Except Fault (State × Option Byte) :=
  if (s.chan ch).count = 0 then .ok (s, none)
  else
    match memRead s ch (s.chan ch).head.toNat with
    | .error f => .error f
    | .ok v =>
      .ok (s.setChan ch { s.chan ch with
              head := BitVec.ofNat 8 (((s.chan ch).head.toNat + 1) % s.params.C),
              count := BitVec.ofNat 8 ((s.chan ch).count.toNat - 1) }, some v)

/-- The inner function `size` (40 R103). -/
def size (ch : Chan) (s : State) : QReg := (s.chan ch).count

/-- `arm(ch)` (00_scope R10). -/
def arm (ch : Chan) (s : State) : State := s.setChan ch { s.chan ch with txIe := true }

/-- `disarm(ch)` (00_scope R10). -/
def disarm (ch : Chan) (s : State) : State := s.setChan ch { s.chan ch with txIe := false }

/-- `WriteTx(ch, b)` (42 R133): only when the peripheral is ready (70 R205, U4). -/
def writeTx (ch : Chan) (b : Byte) (s : State) : Except Fault State :=
  if (s.chan ch).txflag then
    .ok (s.setChan ch { s.chan ch with txlog := (s.chan ch).txlog ++ [b], txflag := false })
  else .error (.transmitterBusy ch)

/-- `ReadRx(ch)` (43 R143): the arrived byte, its pending condition cleared; only when one is pending (U2). -/
def readRx (ch : Chan) (s : State) : Except Fault (State × Byte) :=
  if (s.chan ch).rxflag then
    .ok (s.setChan ch { s.chan ch with rxflag := false }, (s.chan ch).rxbuf)
  else .error (.nothingReceived ch)

/-- Taking QueueOverflow, the only exception (60 R170, R171): the channel is recorded in both modes, and in FAILSTOP
mode the machine halts. Nothing is saved and control goes nowhere. -/
def raiseQueueOverflow (ch : Chan) (s : State) : State :=
  let t := s.setChan ch { s.chan ch with ovf := true }
  match s.params.ovfMode with
  | .failstop => t.setHalt true
  | .report => t

/-- The inner function `xmit` (41 R121): push, then overflow or arm. -/
def xmit (ch : Chan) (b : Byte) (s : State) : State × Response :=
  match push ch b s with
  | none => (raiseQueueOverflow ch s, .overflow)
  | some t => (if size ch t = 1 then arm ch t else t, .accept)

/-- The inner function `consume` (42 R131): one byte to the transmit register, or disarm. -/
def consume (ch : Chan) (s : State) : Except Fault (State × Response) :=
  match pop ch s with
  | .error f => .error f
  | .ok (t, none) => .ok (disarm ch t, .none)
  | .ok (t, some v) =>
    match writeTx ch v t with
    | .error f => .error f
    | .ok u => .ok (u, .some v)

/-- The inner function `dispatch` (43 R141): read the receive register, transmit on the routed channel. -/
def dispatch (ch : Chan) (s : State) : Except Fault (State × Response) :=
  match readRx ch s with
  | .error f => .error f
  | .ok (t, b) => .ok (xmit (s.params.route ch) b t)

/-- The channel's reset values (70 R191), its receive register holding the n-th free value (log 3). -/
def resetChannel (n : Nat) : Channel := Channel.resetWith (Config.rxbufAfterReset n)

/-- The end of an operation: its state with its response, or its fault. -/
def finish (r : Except Fault (State × Response)) : Host.Outcome State Fault Refusal :=
  match r with
  | .ok (s, a) => .next (s.respond a)
  | .error f => .fault f

/-- An operation that only answers. -/
def answer (s : State) (r : Response) : Host.Outcome State Fault Refusal := .next (s.respond r)

/-- The halt test (60 R169 check 3, R173): a halted machine answers HALTED and does nothing else. -/
def unlessHalted (s : State) (k : Host.Outcome State Fault Refusal) : Host.Outcome State Fault Refusal :=
  if s.halt then answer s .halted else k

/-- One outcome after another: a fault or a refusal ends the sequence. -/
def andThen (o : Host.Outcome State Fault Refusal) (k : State → Host.Outcome State Fault Refusal) :
    Host.Outcome State Fault Refusal :=
  match o with
  | .next s => k s
  | .fault f => .fault f
  | .refused r => .refused r

end Sys2Proof.Machine
end

