-- ==== Sys2Proof/Machine/Flags.lean ====
section
/-! DEFINITION. The condition flags, the interrupt requests and the status outputs: all of them functions of the
state, stored nowhere. -/

namespace Sys2Proof.Machine

/-- `empty(ch)` (10_state R25). -/
def empty (s : State) (ch : Chan) : Bool := decide ((s.chan ch).count.toNat = 0)

/-- `full(ch)` (10_state R25). -/
def full (s : State) (ch : Chan) : Bool := decide ((s.chan ch).count.toNat = s.params.C)

/-- The global interrupt enable is `NOT halt` (60 R166). -/
def globalEnable (s : State) : Bool := !s.halt

/-- The transmit-complete request of a channel (42 R130, 60 R164). -/
def txRequest (s : State) (ch : Chan) : Bool := globalEnable s && (s.chan ch).txIe && (s.chan ch).txflag

/-- The receive request of a channel (43 R140, 60 R165). -/
def rxRequest (s : State) (ch : Chan) : Bool := globalEnable s && (s.chan ch).rxflag

/-- The shared transmit request line (10_state R37). -/
def irqTx (s : State) : Bool := txRequest s .c0 || txRequest s .c1

/-- The shared receive request line (10_state R37). -/
def irqRx (s : State) : Bool := rxRequest s .c0 || rxRequest s .c1

/-- The status byte, bit 0 first: EMPTY, FULL, ARMED, TXFLAG, RXFLAG, OVF, zero, HALT (10_state R35). -/
def status (s : State) (ch : Chan) : BitVec 8 :=
  BitVec.ofBool s.halt ++ BitVec.ofBool false ++ BitVec.ofBool (s.chan ch).ovf ++
  BitVec.ofBool (s.chan ch).rxflag ++ BitVec.ofBool (s.chan ch).txflag ++
  BitVec.ofBool (s.chan ch).txIe ++ BitVec.ofBool (full s ch) ++ BitVec.ofBool (empty s ch)

/-- The output `count_o[ch]` (10_state R36). -/
def countOut (s : State) (ch : Chan) : BitVec 8 := (s.chan ch).count

/-- The output `head_o[ch]` (10_state R36). -/
def headOut (s : State) (ch : Chan) : BitVec 8 := (s.chan ch).head

/-- The output `tail_o[ch]` (10_state R36). -/
def tailOut (s : State) (ch : Chan) : BitVec 8 := BitVec.ofNat 8 (s.tail ch)

/-- The interrupt sources (60 R163). -/
inductive IrqSource
  | transmitComplete (ch : Chan)
  | receive (ch : Chan)
deriving DecidableEq, Repr

/-- The pending bit of a source (60 R163). -/
def IrqSource.pending (s : State) : IrqSource → Bool
  | .transmitComplete ch => (s.chan ch).txflag
  | .receive ch => (s.chan ch).rxflag

/-- The enable bit of a source; a receive source has none and is always enabled (60 R163). -/
def IrqSource.enabled (s : State) : IrqSource → Bool
  | .transmitComplete ch => (s.chan ch).txIe
  | .receive _ => true

/-- A source requests service: enabled, pending, and not masked by `halt` (60 R163). -/
def IrqSource.request (s : State) (q : IrqSource) : Bool := globalEnable s && q.enabled s && q.pending s

/-- The handler a source starts (60 R163, R167). -/
def IrqSource.handler (sharedVec : Bool) : IrqSource → Instr
  | .transmitComplete ch => if sharedVec then .txvec else .txc ch
  | .receive ch => if sharedVec then .rxvec else .rxd ch

end Sys2Proof.Machine
end

