-- ==== Sys2Proof/Machine/Operands.lean ====
section
/-! DEFINITION. The response word, and who may start which operation. The operand forms of the operation word
itself are `formatZ`, `formatC` and `formatCD` of the decoder. -/

namespace Sys2Proof.Machine

/-- `STAT` (30_encoding R81). -/
def Response.stat : Response → Nat
  | .done => 0x0
  | .accept => 0x1
  | .reject => 0x2
  | .some _ => 0x3
  | .none => 0x4
  | .count _ => 0x5
  | .overflow => 0x6
  | .illegal => 0x7
  | .halted => 0x8
  | .notReady => 0x9

/-- `VALUE` (30_encoding R80). -/
def Response.value : Response → Byte
  | .some v => v
  | .count n => n
  | _ => 0

/-- The response word: `STAT` in bits 15:12, `0000` in bits 11:8, `VALUE` in bits 7:0 (30_encoding R80). -/
def Response.word (r : Response) : Word := (BitVec.ofNat 16 r.stat <<< 12) ||| r.value.setWidth 16

/-- The execution contexts (60 R176). -/
inductive Context
  /-- the host at the command port -/
  | mainline
  /-- the block's request logic -/
  | interrupt
  /-- the peripherals and the reset source -/
  | environment
deriving DecidableEq, Repr

/-- Which context starts which operation (30_encoding R76, 60 R176). -/
def Context.starts (c : Context) (i : Instr) : Bool :=
  match c, i with
  | .mainline, .nop => true
  | .mainline, .push _ _ => true
  | .mainline, .pop _ => true
  | .mainline, .size _ => true
  | .mainline, .xmit _ _ => true
  | .mainline, .reset => true
  | .interrupt, .txc _ => true
  | .interrupt, .txvec => true
  | .interrupt, .rxd _ => true
  | .interrupt, .rxvec => true
  | .environment, .txdone _ => true
  | .environment, .rxarr _ _ => true
  | .environment, .reset => true
  | _, _ => false

end Sys2Proof.Machine
end

