-- ==== Sys2Proof/Machine/Consume.lean ====
section
/-! DEFINITION. The TransmitConsumer: TXC and TXVEC (42_transmit_consumer). -/

namespace Sys2Proof.Machine

/-- TXC (42 R131, R134). -/
def execTxc (ch : Chan) (s : State) : Host.Outcome State Fault Refusal :=
  unlessHalted s (if txRequest s ch then finish (consume ch s) else answer s .notReady)

/-- The body of TXVEC for one channel: the test is the channel's completion flag alone (42 R132 corner case 1). -/
def consumeIfFlagged (ch : Chan) (s : State) : Except Fault State :=
  if (s.chan ch).txflag then
    match consume ch s with
    | .ok (t, _) => .ok t
    | .error f => .error f
  else .ok s

/-- The loop of TXVEC: both channels examined, in ascending order (42 R132). -/
def serveTransmitters (s : State) : Except Fault (State × Response) :=
  match consumeIfFlagged .c0 s with
  | .error f => .error f
  | .ok t =>
    match consumeIfFlagged .c1 t with
    | .error f => .error f
    | .ok u => .ok (u, .done)

/-- TXVEC (42 R132, R134). -/
def execTxvec (s : State) : Host.Outcome State Fault Refusal :=
  unlessHalted s (if irqTx s then finish (serveTransmitters s) else answer s .notReady)

end Sys2Proof.Machine
end

