-- ==== Sys2Proof/Machine/Environment.lean ====
section
/-! DEFINITION. The environment's events TXDONE and RXARR, and the idle operation NOP (44_environment_and_misc). -/

namespace Sys2Proof.Machine

/-- NOP (44 R153). -/
def execNop (s : State) : Host.Outcome State Fault Refusal := unlessHalted s (answer s .done)

/-- TXDONE (44 R151): not gated by `halt` (R155). -/
def execTxdone (ch : Chan) (s : State) : Host.Outcome State Fault Refusal :=
  answer (s.setChan ch { s.chan ch with txflag := true }) .done

/-- RXARR (44 R152): not gated by `halt` (R155). On an overrun which byte the register keeps is a free choice of the
two, the next one the state numbers (U3; log 4). -/
def execRxarr (ch : Chan) (b : Byte) (s : State) : Host.Outcome State Fault Refusal :=
  if (s.chan ch).rxflag then
    let kept := if Config.overrunTakesNew s.free then b else (s.chan ch).rxbuf
    let t := s.setChan ch { s.chan ch with rxbuf := kept }
    answer (t.setFree (s.free + 1)) .done
  else answer (s.setChan ch { s.chan ch with rxbuf := b, rxflag := true }) .done

end Sys2Proof.Machine
end

