-- ==== Sys2Proof/Machine/Queue.lean ====
section
/-! DEFINITION. The ByteQueue family: PUSH, POP, SIZE (40_queue_ops). -/

namespace Sys2Proof.Machine

/-- PUSH (40 R101): enqueue without arming; a full queue answers REJECT and is untouched. -/
def execPush (ch : Chan) (b : Byte) (s : State) : Host.Outcome State Fault Refusal :=
  unlessHalted s
    (match push ch b s with
     | some t => answer t .accept
     | none => answer s .reject)

/-- POP (40 R102): dequeue without disarming or transmitting. -/
def execPop (ch : Chan) (s : State) : Host.Outcome State Fault Refusal :=
  unlessHalted s
    (match pop ch s with
     | .ok (t, some v) => answer t (.some v)
     | .ok (t, none) => answer t .none
     | .error f => .fault f)

/-- SIZE (40 R103): read `count`. -/
def execSize (ch : Chan) (s : State) : Host.Outcome State Fault Refusal :=
  unlessHalted s (answer s (.count (size ch s)))

end Sys2Proof.Machine
end

