-- ==== Sys2Proof/Machine/Receive.lean ====
section
/-! DEFINITION. The ReceiveDispatch: RXD and RXVEC (43_receive_dispatch). -/

namespace Sys2Proof.Machine

/-- RXD (43 R141, R146). -/
def execRxd (ch : Chan) (s : State) : Host.Outcome State Fault Refusal :=
  unlessHalted s (if rxRequest s ch then finish (dispatch ch s) else answer s .notReady)

/-- The body of RXVEC for one channel, and the handler's response so far: skipped when the machine has halted inside
the handler (43 R142 corner case 1). -/
def dispatchIfPending (ch : Chan) (s : State) (r : Response) : Except Fault (State × Response) :=
  if rxRequest s ch then
    match dispatch ch s with
    | .ok (t, a) => .ok (t, if a = .overflow then .overflow else r)
    | .error f => .error f
  else .ok (s, r)

/-- The loop of RXVEC, in ascending order (43 R142). -/
def serveReceivers (s : State) : Except Fault (State × Response) :=
  match dispatchIfPending .c0 s .done with
  | .error f => .error f
  | .ok (t, r) => dispatchIfPending .c1 t r

/-- RXVEC (43 R142, R146). -/
def execRxvec (s : State) : Host.Outcome State Fault Refusal :=
  unlessHalted s (if irqRx s then finish (serveReceivers s) else answer s .notReady)

end Sys2Proof.Machine
end

