-- ==== Sys2Proof/Machine/Reset.lean ====
section
/-! DEFINITION. RESET (70_reset_and_hazards). -/

namespace Sys2Proof.Machine

/-- RESET (70 R191): every element of the tuple at its reset value, whatever `halt` is; the receive registers hold
free values (log 3). The parameters, and the model's own fields that carry input, are not of the tuple. -/
def execReset (s : State) : Host.Outcome State Fault Refusal :=
  let t := (s.setChan .c0 (resetChannel s.free)).setChan .c1 (resetChannel (s.free + 1))
  answer ((t.setHalt false).setFree (s.free + 2)) .done

end Sys2Proof.Machine
end

