-- ==== Sys2Proof/Machine/Transmit.lean ====
section
/-! DEFINITION. The TransmitProducer: XMIT (41_transmit_producer). -/

namespace Sys2Proof.Machine

/-- XMIT (41 R121). -/
def execXmit (ch : Chan) (b : Byte) (s : State) : Host.Outcome State Fault Refusal :=
  unlessHalted s (finish (.ok (xmit ch b s)))

end Sys2Proof.Machine
end

