-- ==== Sys2Proof/Machine/Dispatch.lean ====
section
/-! DEFINITION. The meaning of each operation, one arm each. -/

namespace Sys2Proof.Machine

def exec (i : Instr) (s : State) : Host.Outcome State Fault Refusal :=
  match i with
  | .nop => Sys2Proof.Machine.execNop s
  | .push ch b => Sys2Proof.Machine.execPush ch b s
  | .pop ch => Sys2Proof.Machine.execPop ch s
  | .size ch => Sys2Proof.Machine.execSize ch s
  | .xmit ch b => Sys2Proof.Machine.execXmit ch b s
  | .txc ch => Sys2Proof.Machine.execTxc ch s
  | .rxd ch => Sys2Proof.Machine.execRxd ch s
  | .txvec => Sys2Proof.Machine.execTxvec s
  | .rxvec => Sys2Proof.Machine.execRxvec s
  | .txdone ch => Sys2Proof.Machine.execTxdone ch s
  | .rxarr ch b => Sys2Proof.Machine.execRxarr ch b s
  | .reset => Sys2Proof.Machine.execReset s

end Sys2Proof.Machine
end

