-- ==== Sys2Proof/Machine/Port.lean ====
section
/-! DEFINITION. How operations reach the block: a word named in a trace, and the clock edge of the port model with
its arbiter, its command port and the environment's pulses (30_encoding R83 to R85). -/

namespace Sys2Proof.Machine

/-- A word named in a trace: the operation it decodes to, or ILLEGAL, checked before the halt test (30 R78, 60 R169). -/
def runWord (w : Word) (s : State) : Host.Outcome State Fault Refusal :=
  match decode w with
  | .op i => exec i s
  | .illegal _ => answer s .illegal

/-- A word on the command port: only the host's operations and RESET are accepted, any other word answers ILLEGAL
(30 R83, D15), also while halted (log 13). -/
def runPortWord (w : Word) (s : State) : Host.Outcome State Fault Refusal :=
  match decode w with
  | .op i => if Context.mainline.starts i then exec i s else answer s .illegal
  | .illegal _ => answer s .illegal

/-- What the arbiter can give an edge to (30 R84). -/
inductive Grant
  /-- a handler the block starts by itself -/
  | handler (i : Instr)
  /-- the word presented on the command port -/
  | host (w : Word)
deriving DecidableEq, Repr

/-- The handlers whose enabling condition holds, transmit before receive and channel 0 first: with dedicated vectors
each request starts its own handler, with shared vectors the OR of two requests starts one (60 R163, R167). The order
is the one R168 suggests; the arbiter may choose any entry. -/
def enabledHandlers (s : State) : List Instr :=
  if s.params.sharedVec then
    (if irqTx s then [.txvec] else []) ++ (if irqRx s then [.rxvec] else [])
  else
    let sources : List IrqSource :=
      [.transmitComplete .c0, .transmitComplete .c1, .receive .c0, .receive .c1]
    (sources.filter (fun q => q.request s)).map (IrqSource.handler false)

/-- Everything possible at an edge (60 R168). -/
def grants (s : State) (presented : Option Word) : List Grant :=
  (enabledHandlers s).map Grant.handler ++ (presented.map Grant.host).toList

/-- The word on the command port at an edge: one that lost arbitration stays presented (30 R84, 44 R154). -/
def presentedWord (e : Edge) (s : State) : Option Word := s.cmdHeld <|> e.cmd

/-- The arbiter's choice at an edge: exactly one of what is possible, none only when nothing is (60 R168, 30 R84). The
edge's `grant` is its position, counted around the list (log 9). -/
def arbitrate (e : Edge) (s : State) : Option Grant :=
  let possible := grants s (presentedWord e s)
  possible[e.grant % possible.length]?

/-- Output `cmd_ready`: the block executes the presented word at this edge (30 R83; log 22). -/
def cmdReady (e : Edge) (s : State) : Bool :=
  match e.rst, arbitrate e s with
  | false, some (.host _) => true
  | _, _ => false

/-- The operation of an edge without reset: a handler, the host's word, or none (30 R84). The pins `rsp_valid` and
`rsp` carry the response to a command-port word only (30 R83). -/
def edgeOperation (e : Edge) (s : State) : Host.Outcome State Fault Refusal :=
  match arbitrate e s with
  | some (.handler i) =>
    andThen (exec i s) (fun t => .next (t.setPort (presentedWord e s) none))
  | some (.host w) => andThen (runPortWord w s) (fun t => .next (t.setPort none t.rsp))
  | none => .next (s.setPort (presentedWord e s) none)

/-- Outputs `tx_wr[ch]` and `tx_data[ch]` of an operation that took `s` to `t`: the bytes it wrote to the transmit
register (30 R83, 42 R133). -/
def txWritten (s t : State) (ch : Chan) : List Byte := (t.chan ch).txlog.drop (s.chan ch).txlog.length

/-- The pulse on `tx_done[ch]` (30 R83). -/
def Edge.txDone (e : Edge) : Chan → Bool
  | .c0 => e.txDone0
  | .c1 => e.txDone1

/-- The pulse on `rx_valid[ch]` with `rx_data[ch]` (30 R83). -/
def Edge.rx (e : Edge) : Chan → Option Byte
  | .c0 => e.rx0
  | .c1 => e.rx1

/-- The operations the pulses of an edge perform, in order (30 R85). -/
def Edge.events (e : Edge) : List Instr :=
  (if e.txDone0 then [.txdone .c0] else []) ++ (if e.txDone1 then [.txdone .c1] else []) ++
  (e.rx0.map (Instr.rxarr .c0)).toList ++ (e.rx1.map (Instr.rxarr .c1)).toList

/-- Operations one after the other. -/
def execAll (is : List Instr) (s : State) : Host.Outcome State Fault Refusal :=
  match is with
  | [] => .next s
  | i :: rest => andThen (exec i s) (execAll rest)

/-- The channel on which a `tx_done` pulse falls at the edge of the matching `tx_wr`, which 30 R85 rules out. -/
def earlyCompletion (e : Edge) (s t : State) : Option Chan :=
  if e.txDone .c0 && !(txWritten s t .c0).isEmpty then some .c0
  else if e.txDone .c1 && !(txWritten s t .c1).isEmpty then some .c1
  else none

/-- The operation executed at the edge is the operation word RESET (70 R190). -/
def resetGranted (e : Edge) (s : State) : Bool :=
  match arbitrate e s with
  | some (.host w) => decode w == .op .reset
  | _ => false

/-- One rising clock edge (30 R83 to R85): reset overrides everything at its edge, whether the pin or the word
delivers it (70 R190; log 11); otherwise the operation, then the environment's pulses. -/
def clockEdge (e : Edge) (s : State) : Host.Outcome State Fault Refusal :=
  if e.rst then
    andThen (exec .reset s) (fun t => .next (t.setPort (presentedWord e s) none))
  else if resetGranted e s then edgeOperation e s
  else
    andThen (edgeOperation e s) (fun t =>
      match earlyCompletion e s t with
      | some ch => .fault (.completedAtWrite ch)
      | none => execAll e.events t)

/-- An edge at which no pin is driven. -/
def Edge.quiet (grant : Nat) : Edge :=
  { rst := false, cmd := none, txDone0 := false, txDone1 := false, rx0 := none, rx1 := none, grant := grant }

/-- One item of the input stream. -/
def takeInput (x : Input) (s : State) : Host.Outcome State Fault Refusal :=
  match x with
  | .word w => runWord w s
  | .edge e => clockEdge e s

/-- A step when the input stream holds nothing: a quiet edge, at which the block starts an enabled handler or takes
the word it is presented with, as the arbiter freely chooses (70 R192, R213; log 6). -/
def idleEdge (s : State) : Host.Outcome State Fault Refusal :=
  clockEdge (Edge.quiet (Config.arbiterChoice s.free)) (s.setFree (s.free + 1))

/-- The next operation the block executes comes from the input stream (10_state R33, R41). -/
def advance (s : State) : Host.Outcome State Fault Refusal :=
  match s.inputs with
  | [] => idleEdge s
  | x :: rest => takeInput x (s.setInputs rest)

end Sys2Proof.Machine
end

