-- ==== Sys2Proof/Machine/Step.lean ====
section
/-! DEFINITION. One step of the machine, and how a word is placed where the step takes it. -/

namespace Sys2Proof.Machine

/-- One step: the next item of the input stream. -/
def step (s : State) : Host.Outcome State Fault Refusal := advance s

/-- The state with the instruction put at the front of the input stream, where the step takes its next word. -/
def State.withFetchWord (s : State) (nbits w : Nat) : State :=
  match tableWord? nbits w with
  | some v => s.setInputs (.word v :: s.inputs)
  | none => s

end Sys2Proof.Machine
end

