-- ==== Sys2Proof/Safety.lean ====
section
/-! DEFINITION. What the claims are about: the queue as a sequence, the invariants of 10_state R38, the transmit
state, how a run ends, and the fairness assumptions. -/

namespace Sys2Proof.Machine

/-- The byte in a cell of a channel's storage, if one was written. -/
def cellAt (s : State) (ch : Chan) (i : Nat) : Option Byte := Storage.read (s.chan ch).storage i

/-- The queue's contents, oldest first: the `count` cells from `head` on (10_state R38 item 2). -/
def contents (s : State) (ch : Chan) : List (Option Byte) :=
  (List.range (s.chan ch).count.toNat).map
    (fun i => cellAt s ch (((s.chan ch).head.toNat + i) % s.params.C))

/-- The bytes a channel has transmitted, followed by those it still holds (10_state R38 item 4). -/
def history (s : State) (ch : Chan) : List (Option Byte) := (s.chan ch).txlog.map some ++ contents s ch

/-- What holds of a channel in every reachable state (10_state R38 items 1, 2, 6, 20_memory R50). -/
structure ChannelInv (s : State) (ch : Chan) : Prop where
  canonical : Memory.wf (s.chan ch).storage = true
  cells_exist : Storage.within s.params.C (s.chan ch).storage = true
  count_le : (s.chan ch).count.toNat ≤ s.params.C
  head_lt : (s.chan ch).head.toNat < s.params.C
  window_written : ∀ i < (s.chan ch).count.toNat,
    (cellAt s ch (((s.chan ch).head.toNat + i) % s.params.C)).isSome = true
  busy_logged : (s.chan ch).txflag = false → (s.chan ch).txlog ≠ []

/-- What holds of the machine in every reachable state (10_state R38 items 1, 2, 5, 6). -/
structure StateInv (s : State) : Prop where
  channel : ∀ ch, ChannelInv s ch
  halt_recorded : s.halt = true → s.ch0.ovf = true ∨ s.ch1.ovf = true
  report_runs : s.params.ovfMode = .report → s.halt = false

/-- A channel no direct PUSH has touched: a non-empty queue is armed (10_state R38 item 3). -/
def Served (s : State) (ch : Chan) : Prop := 0 < (s.chan ch).count.toNat → (s.chan ch).txIe = true

/-- The transmit state of a channel (10_state R39, 70 R204). -/
inductive TxState
  | idle
  | armed
  | draining
  /-- disarmed with bytes queued: only after a direct PUSH -/
  | stranded
deriving DecidableEq, Repr

/-- The transmit state is a function of `tx_ie` and `count` (10_state R39). -/
def txState (s : State) (ch : Chan) : TxState :=
  match (s.chan ch).txIe, decide ((s.chan ch).count.toNat = 0) with
  | false, true => .idle
  | true, false => .armed
  | true, true => .draining
  | false, false => .stranded

/-- The run ended cleanly (70 R213). -/
def clean (s : State) : Bool := !s.halt

/-- The run ended quiescent: clean, both channels Idle, no handler enabled (70 R213). -/
def quiescent (s : State) : Bool :=
  clean s && txState s .c0 == .idle && txState s .c1 == .idle && !irqTx s && !irqRx s

/-- The run ended in the terminal error state, which is no successful end (60 R173, 70 R213). -/
def terminalError (s : State) : Bool := s.halt

/-- The elements of the tuple of 10_state R20 agree. -/
def SameTuple (s t : State) : Prop := s.ch0 = t.ch0 ∧ s.ch1 = t.ch1 ∧ s.halt = t.halt

/-- Everything no operation may write agrees: the parameters (10_state R41) and the input side (logs 6, 7, 8). -/
def SameSurroundings (s t : State) : Prop :=
  s.params = t.params ∧ s.inputs = t.inputs ∧ s.cmdHeld = t.cmdHeld ∧ s.portRsp = t.portRsp

/-- An infinite run: the operation executed at each step, and the state before it. -/
structure Run where
  op : Nat → Instr
  state : Nat → State

/-- Each state of the run follows from the one before by its operation (20_memory R59). -/
def Run.legal (r : Run) : Prop := ∀ n, exec (r.op n) (r.state n) = .next (r.state (n + 1))

/-- Fairness of the environment: a busy peripheral eventually completes (42 R138 (a)). -/
def Run.completes (r : Run) (ch : Chan) : Prop :=
  ∀ n, ((r.state n).chan ch).txflag = false → ∃ m, n ≤ m ∧ r.op m = .txdone ch

/-- Fairness of the arbiter: a consumer that stays enabled is eventually started (42 R138 (b)). -/
def Run.servesTransmit (r : Run) (ch : Chan) : Prop :=
  ∀ n, (∀ m, n ≤ m → txRequest (r.state m) ch = true) → ∃ m, n ≤ m ∧ (r.op m = .txc ch ∨ r.op m = .txvec)

/-- Fairness of the arbiter, receive twin: a receive handler that stays enabled is eventually started (70 R212). -/
def Run.servesReceive (r : Run) (ch : Chan) : Prop :=
  ∀ n, (∀ m, n ≤ m → rxRequest (r.state m) ch = true) → ∃ m, n ≤ m ∧ (r.op m = .rxd ch ∨ r.op m = .rxvec)

end Sys2Proof.Machine
end

