-- ==== Sys2Proof/Certificates/Slice0/Obligations.lean ====
section
/-! DEFINITION. The statements for the provers. Every statement about states is over every configuration, since the
parameters are a field of the state, and over every value of the free choices. -/

open Sys2Proof Sys2Proof.Machine

/-! ## The operation word -/

/-- 30_encoding R88: every operation is well-formed, decoding an encoded operation gives it back, and encoding what a
legal word decodes to gives the word back. -/
def Obligations.DecodeAndEncodeAgree : Prop :=
  (∀ i : Instr, i.wf = true ∧ decode (encode i) = .op i) ∧
  (∀ (w : Word) (i : Instr), decode w = .op i → encode i = w)

/-- 30_encoding R76: the decoder answers an operation of a row exactly when the word matches the row, and a word matches
at most one row. -/
def Obligations.DecoderFollowsOpcodeMap : Prop :=
  (∀ (w : Word) (m : Mnemonic),
    (∃ i, decode w = .op i ∧ i.mnemonic = m) ↔ ∃ r ∈ opcodeMap, r.name = m ∧ w &&& r.mask = r.pattern) ∧
  (∀ (w : Word) (q r : OpcodeRow), q ∈ opcodeMap → r ∈ opcodeMap →
    w &&& q.mask = q.pattern → w &&& r.mask = r.pattern → q = r)

/-- 30_encoding R77: exactly which words are illegal, and the examples the rule gives. -/
def Obligations.IllegalWordsAreExactlyThese : Prop :=
  (∀ w : Word, (∃ why, decode w = .illegal why) ↔ ∀ r ∈ opcodeMap, w &&& r.mask ≠ r.pattern) ∧
  (∀ w : Word, (∃ why, decode w = .illegal why) ↔
    ((0xB ≤ (w >>> 12).toNat ∧ (w >>> 12).toNat ≤ 0xE) ∨
     w &&& 0x0E00 ≠ 0 ∨
     (w &&& 0x00FF ≠ 0 ∧ (w >>> 12).toNat ∈ [0x0, 0x2, 0x3, 0x5, 0x6, 0x7, 0x8, 0x9, 0xF]) ∨
     (w &&& 0x0100 ≠ 0 ∧ (w >>> 12).toNat ∈ [0x0, 0x7, 0x8, 0xF]))) ∧
  (∀ w ∈ [(0xB000 : Word), 0x1200, 0x2001, 0x7100, 0x0001], ∃ why, decode w = .illegal why)

/-- 30_encoding R76, R88: words written out from the opcode map decode to the operations they stand for. -/
def Obligations.SampleWordsDecode : Prop :=
  decode 0x0000 = .op .nop ∧ decode 0x11FF = .op (.push .c1 0xFF) ∧ decode 0x2100 = .op (.pop .c1) ∧
  decode 0x3000 = .op (.size .c0) ∧ decode 0x4161 = .op (.xmit .c1 0x61) ∧ decode 0x5100 = .op (.txc .c1) ∧
  decode 0x6000 = .op (.rxd .c0) ∧ decode 0x7000 = .op .txvec ∧ decode 0x8000 = .op .rxvec ∧
  decode 0x9100 = .op (.txdone .c1) ∧ decode 0xA17E = .op (.rxarr .c1 0x7E) ∧ decode 0xF000 = .op .reset

/-- 30_encoding R80, R81: the fields of every response word, and the word of each status code. -/
def Obligations.ResponseWordLayout : Prop :=
  (∀ r : Response, (r.word >>> 12).toNat = r.stat ∧ r.word &&& 0x0F00 = 0 ∧ r.word.setWidth 8 = r.value) ∧
  Response.done.word = 0x0000 ∧ Response.accept.word = 0x1000 ∧ Response.reject.word = 0x2000 ∧
  (∀ v : Byte, (Response.some v).word = 0x3000 + v.setWidth 16) ∧ Response.none.word = 0x4000 ∧
  (∀ n : QReg, (Response.count n).word = 0x5000 + n.setWidth 16) ∧ Response.overflow.word = 0x6000 ∧
  Response.illegal.word = 0x7000 ∧ Response.halted.word = 0x8000 ∧ Response.notReady.word = 0x9000

/-! ## A step runs the decoded word -/

/-- A step on a trace word executes the operation it decodes to, the word taken off the input stream; so a word placed
where the step takes its next word is the next operation executed. -/
def Obligations.StepRunsDecodedWord : Prop :=
  (∀ (s : State) (w : Word) (rest : List Input) (i : Instr), s.inputs = .word w :: rest → i.wf = true →
    decode w = .op i → step s = exec i (s.setInputs rest)) ∧
  (∀ (s : State) (w : Nat) (i : Instr), decodeTableWord 16 w = some i → step (s.withFetchWord 16 w) = exec i s)

/-- 30_encoding R78: an illegal word changes no state and answers ILLEGAL, halted or not, in a trace and on the
command port. -/
def Obligations.IllegalWordChangesNothing : Prop :=
  Response.illegal.word = 0x7000 ∧
  ∀ (w : Word) (why : Illegal) (s : State), decode w = .illegal why →
    runWord w s = .next (s.respond .illegal) ∧ runPortWord w s = .next (s.respond .illegal) ∧
    ∀ rest, s.inputs = .word w :: rest → step s = .next ((s.setInputs rest).respond .illegal)

/-! ## The result of each operation -/

/-- 44 R153, 40 R103: NOP answers DONE and SIZE answers `count`; neither changes anything. -/
def Obligations.NopAndSizeOnlyAnswer : Prop :=
  ∀ s : State, s.halt = false →
    exec .nop s = .next (s.respond .done) ∧
    ∀ ch, exec (.size ch) s = .next (s.respond (.count (s.chan ch).count))

/-- 40 R101: PUSH on a full queue answers REJECT and writes nothing; otherwise it writes one cell and `count`, answers
ACCEPT, and writes nothing else. -/
def Obligations.PushQueuesTheByte : Prop :=
  ∀ (ch : Chan) (b : Byte) (s : State), s.halt = false →
    ((s.chan ch).count.toNat = s.params.C → exec (.push ch b) s = .next (s.respond .reject)) ∧
    ((s.chan ch).count.toNat ≠ s.params.C → exec (.push ch b) s = .next ((s.setChan ch { s.chan ch with
      storage := Storage.write (s.chan ch).storage
        (((s.chan ch).head.toNat + (s.chan ch).count.toNat) % s.params.C) b,
      count := BitVec.ofNat 8 ((s.chan ch).count.toNat + 1) }).respond .accept))

/-- 40 R102: POP on an empty queue answers NONE and changes nothing; otherwise it answers the byte at `head`, advances
`head` and lowers `count`, and writes nothing else. -/
def Obligations.PopTakesTheByteAtHead : Prop :=
  ∀ (ch : Chan) (s : State), s.halt = false →
    ((s.chan ch).count.toNat = 0 → exec (.pop ch) s = .next (s.respond .none)) ∧
    (∀ v, (s.chan ch).count.toNat ≠ 0 → (s.chan ch).head.toNat < s.params.C →
      cellAt s ch (s.chan ch).head.toNat = some v →
      exec (.pop ch) s = .next ((s.setChan ch { s.chan ch with
        head := BitVec.ofNat 8 (((s.chan ch).head.toNat + 1) % s.params.C),
        count := BitVec.ofNat 8 ((s.chan ch).count.toNat - 1) }).respond (.some v)))

/-- 41 R121, R124: an accepted XMIT queues the byte and arms exactly when the queue was empty. -/
def Obligations.XmitQueuesAndArms : Prop :=
  ∀ (ch : Chan) (b : Byte) (s : State), s.halt = false → (s.chan ch).count.toNat ≠ s.params.C →
    exec (.xmit ch b) s = .next ((s.setChan ch { s.chan ch with
      storage := Storage.write (s.chan ch).storage
        (((s.chan ch).head.toNat + (s.chan ch).count.toNat) % s.params.C) b,
      count := BitVec.ofNat 8 ((s.chan ch).count.toNat + 1),
      txIe := if (s.chan ch).count.toNat = 0 then true else (s.chan ch).txIe }).respond .accept)

/-- 42 R131: TXC on an enabled channel hands the byte at `head` to the peripheral and stays armed, or, when the queue
is empty, disarms; it writes nothing else. -/
def Obligations.TxcTransmitsOrDisarms : Prop :=
  ∀ (ch : Chan) (s : State), s.halt = false → (s.chan ch).txIe = true → (s.chan ch).txflag = true →
    ((s.chan ch).count.toNat = 0 →
      exec (.txc ch) s = .next ((s.setChan ch { s.chan ch with txIe := false }).respond .none)) ∧
    (∀ v, (s.chan ch).count.toNat ≠ 0 → (s.chan ch).head.toNat < s.params.C →
      cellAt s ch (s.chan ch).head.toNat = some v →
      exec (.txc ch) s = .next ((s.setChan ch { s.chan ch with
        head := BitVec.ofNat 8 (((s.chan ch).head.toNat + 1) % s.params.C),
        count := BitVec.ofNat 8 ((s.chan ch).count.toNat - 1),
        txflag := false, txlog := (s.chan ch).txlog ++ [v] }).respond (.some v)))

/-- 42 R132: TXVEC serves each flagged channel on its flag alone, skips the others, and answers DONE. -/
def Obligations.TxvecServesEveryFlaggedChannel : Prop :=
  ∀ s : State, s.halt = false →
    (∃ ch, (s.chan ch).txIe = true ∧ (s.chan ch).txflag = true) →
    (∀ ch, (s.chan ch).txflag = true → (s.chan ch).count.toNat ≠ 0 →
      (s.chan ch).head.toNat < s.params.C ∧ (cellAt s ch (s.chan ch).head.toNat).isSome = true) →
    ∃ t, exec .txvec s = .next t ∧ t.rsp = some .done ∧ t.halt = s.halt ∧ t.free = s.free ∧
      SameSurroundings s t ∧
      ∀ ch, if (s.chan ch).txflag = false then t.chan ch = s.chan ch
        else if (s.chan ch).count.toNat = 0 then t.chan ch = { s.chan ch with txIe := false }
        else ∃ v, cellAt s ch (s.chan ch).head.toNat = some v ∧ t.chan ch = { s.chan ch with
          head := BitVec.ofNat 8 (((s.chan ch).head.toNat + 1) % s.params.C),
          count := BitVec.ofNat 8 ((s.chan ch).count.toNat - 1),
          txflag := false, txlog := (s.chan ch).txlog ++ [v] }

/-- 43 R141, R143: RXD on a pending channel clears the pending flag and queues the received byte on the routed
channel, which it arms when that queue was empty. `u` is the machine after the read of the receive register. -/
def Obligations.RxdQueuesOnTheRoutedChannel : Prop :=
  ∀ (ch : Chan) (s u : State), s.halt = false → (s.chan ch).rxflag = true →
    u = s.setChan ch { s.chan ch with rxflag := false } →
    (s.chan (s.params.route ch)).count.toNat ≠ s.params.C →
    exec (.rxd ch) s = .next ((u.setChan (s.params.route ch) { u.chan (s.params.route ch) with
      storage := Storage.write (s.chan (s.params.route ch)).storage
        (((s.chan (s.params.route ch)).head.toNat + (s.chan (s.params.route ch)).count.toNat) % s.params.C)
        (s.chan ch).rxbuf,
      count := BitVec.ofNat 8 ((s.chan (s.params.route ch)).count.toNat + 1),
      txIe := if (s.chan (s.params.route ch)).count.toNat = 0 then true
        else (s.chan (s.params.route ch)).txIe }).respond .accept)

/-- 43 R142: RXVEC is the receive handler of each pending channel in ascending order, channel 1 left alone when the
machine halts on channel 0, with one response for both. -/
def Obligations.RxvecServesPendingChannelsInOrder : Prop :=
  ∀ s : State, s.halt = false →
    ((s.chan .c0).rxflag = true → (s.chan .c1).rxflag = false →
      ∃ t, exec (.rxd .c0) s = .next t ∧
        exec .rxvec s = .next (t.respond (if t.rsp = some .overflow then .overflow else .done))) ∧
    ((s.chan .c0).rxflag = false → (s.chan .c1).rxflag = true →
      ∃ t, exec (.rxd .c1) s = .next t ∧
        exec .rxvec s = .next (t.respond (if t.rsp = some .overflow then .overflow else .done))) ∧
    ((s.chan .c0).rxflag = true → (s.chan .c1).rxflag = true →
      ∃ t, exec (.rxd .c0) s = .next t ∧
        (t.halt = true → exec .rxvec s = .next (t.respond .overflow)) ∧
        (t.halt = false → ∃ u, exec (.rxd .c1) t = .next u ∧
          exec .rxvec s = .next (u.respond
            (if t.rsp = some .overflow ∨ u.rsp = some .overflow then .overflow else .done))))

/-- 43 R142: RXVEC with both channels pending, routed to different queues that have room, queues each byte on its
routed channel and answers DONE. -/
def Obligations.RxvecQueuesBothBytes : Prop :=
  ∀ s : State, s.halt = false → (∀ ch, (s.chan ch).rxflag = true) →
    s.params.route .c0 ≠ s.params.route .c1 → (∀ ch, (s.chan ch).count.toNat ≠ s.params.C) →
    ∃ t, exec .rxvec s = .next t ∧ t.rsp = some .done ∧ t.halt = false ∧ t.free = s.free ∧ SameSurroundings s t ∧
      ∀ ch, t.chan (s.params.route ch) = { s.chan (s.params.route ch) with
        storage := Storage.write (s.chan (s.params.route ch)).storage
          (((s.chan (s.params.route ch)).head.toNat + (s.chan (s.params.route ch)).count.toNat) % s.params.C)
          (s.chan ch).rxbuf,
        count := BitVec.ofNat 8 ((s.chan (s.params.route ch)).count.toNat + 1),
        rxflag := false,
        txIe := if (s.chan (s.params.route ch)).count.toNat = 0 then true
          else (s.chan (s.params.route ch)).txIe }

/-- 44 R151, R155: TXDONE sets the completion flag and nothing else, halted or not. -/
def Obligations.TxdoneSetsTheCompletionFlag : Prop :=
  ∀ (ch : Chan) (s : State),
    exec (.txdone ch) s = .next ((s.setChan ch { s.chan ch with txflag := true }).respond .done)

/-- 44 R152, R155, U3: RXARR on a receive register that has been read loads it and sets the flag; on an overrun exactly
one of the two bytes survives, which one is free, and only the counter of free choices moves beside it. Halted
or not. -/
def Obligations.RxarrLoadsTheReceiveRegister : Prop :=
  ∀ (ch : Chan) (b : Byte) (s : State),
    ((s.chan ch).rxflag = false → exec (.rxarr ch b) s =
      .next ((s.setChan ch { s.chan ch with rxbuf := b, rxflag := true }).respond .done)) ∧
    ((s.chan ch).rxflag = true → ∃ kept n, (kept = (s.chan ch).rxbuf ∨ kept = b) ∧
      exec (.rxarr ch b) s =
        .next (((s.setChan ch { s.chan ch with rxbuf := kept }).setFree n).respond .done))

/-- 70 R191: RESET puts every element of the tuple at its reset value in any state, halted or not; the receive
registers hold some byte, and the parameters and the input side stay. -/
def Obligations.ResetRestoresTheTuple : Prop :=
  ∀ s : State, ∃ t x y, exec .reset s = .next t ∧ t.rsp = some .done ∧ SameSurroundings s t ∧ t.halt = false ∧
    t.ch0 = { storage := [], head := 0, count := 0, txIe := false, ovf := false, txflag := true,
              rxflag := false, rxbuf := x, txlog := [] } ∧
    t.ch1 = { storage := [], head := 0, count := 0, txIe := false, ovf := false, txflag := true,
              rxflag := false, rxbuf := y, txlog := [] }

/-! ## Overflow, the halted state and operations that are not enabled -/

/-- 60 R170: entry of QueueOverflow in FAILSTOP mode, from XMIT, from RXD and from RXVEC serving one channel. -/
def Obligations.OverflowHaltsInFailstop : Prop :=
  ∀ (ch : Chan) (b : Byte) (s : State), s.halt = false → s.params.ovfMode = .failstop →
    ((s.chan ch).count.toNat = s.params.C → exec (.xmit ch b) s =
      .next (((s.setChan ch { s.chan ch with ovf := true }).setHalt true).respond .overflow)) ∧
    (∀ src u, (s.chan src).rxflag = true → s.params.route src = ch →
      u = s.setChan src { s.chan src with rxflag := false } → (s.chan ch).count.toNat = s.params.C →
      exec (.rxd src) s =
        .next (((u.setChan ch { u.chan ch with ovf := true }).setHalt true).respond .overflow) ∧
      ((s.chan src.other).rxflag = false → exec .rxvec s = exec (.rxd src) s))

/-- 60 R171: entry of QueueOverflow in REPORT mode, from XMIT, from RXD and from RXVEC serving one channel. -/
def Obligations.OverflowIsReported : Prop :=
  ∀ (ch : Chan) (b : Byte) (s : State), s.halt = false → s.params.ovfMode = .report →
    ((s.chan ch).count.toNat = s.params.C → exec (.xmit ch b) s =
      .next ((s.setChan ch { s.chan ch with ovf := true }).respond .overflow)) ∧
    (∀ src u, (s.chan src).rxflag = true → s.params.route src = ch →
      u = s.setChan src { s.chan src with rxflag := false } → (s.chan ch).count.toNat = s.params.C →
      exec (.rxd src) s = .next ((u.setChan ch { u.chan ch with ovf := true }).respond .overflow) ∧
      ((s.chan src.other).rxflag = false → exec .rxvec s = exec (.rxd src) s))

/-- 60 R173: while halted every operation but RESET, TXDONE and RXARR answers HALTED and changes nothing, and no
handler is enabled. -/
def Obligations.HaltedMachineOnlyAnswers : Prop :=
  ∀ (i : Instr) (s : State), s.halt = true →
    i ≠ .reset → (∀ ch, i ≠ .txdone ch) → (∀ ch b, i ≠ .rxarr ch b) →
    exec i s = .next (s.respond .halted) ∧ enabledHandlers s = []

/-- 42 R134: TXC and TXVEC named while not enabled change nothing and answer NOTREADY, and the arbiter never starts
them. -/
def Obligations.DisabledConsumerIsNotReady : Prop :=
  ∀ s : State, s.halt = false →
    (∀ ch, ¬ ((s.chan ch).txIe = true ∧ (s.chan ch).txflag = true) →
      exec (.txc ch) s = .next (s.respond .notReady) ∧ .txc ch ∉ enabledHandlers s) ∧
    ((∀ ch, ¬ ((s.chan ch).txIe = true ∧ (s.chan ch).txflag = true)) →
      exec .txvec s = .next (s.respond .notReady) ∧ .txvec ∉ enabledHandlers s)

/-- 43 R146: RXD and RXVEC named while not enabled change nothing and answer NOTREADY. -/
def Obligations.DisabledReceiveHandlerIsNotReady : Prop :=
  ∀ s : State, s.halt = false →
    (∀ ch, (s.chan ch).rxflag = false → exec (.rxd ch) s = .next (s.respond .notReady)) ∧
    ((∀ ch, (s.chan ch).rxflag = false) → exec .rxvec s = .next (s.respond .notReady))

/-- 30_encoding R82: the responses each operation can give; the byte TXC answers is the one it wrote to the transmit
register, and NONE means it disarmed. -/
def Obligations.ResponsesOfEachOperation : Prop :=
  ∀ (i : Instr) (s t : State), exec i s = .next t → ∃ r, t.rsp = some r ∧
    match i with
    | .nop => r = .done ∨ r = .halted
    | .push _ _ => r = .accept ∨ r = .reject ∨ r = .halted
    | .pop _ => (∃ v, r = .some v) ∨ r = .none ∨ r = .halted
    | .size ch => r = .count (s.chan ch).count ∨ r = .halted
    | .xmit _ _ => r = .accept ∨ r = .overflow ∨ r = .halted
    | .txc ch => (∃ v, r = .some v ∧ (t.chan ch).txlog = (s.chan ch).txlog ++ [v]) ∨
        (r = .none ∧ (t.chan ch).txIe = false) ∨ r = .notReady ∨ r = .halted
    | .rxd _ => r = .accept ∨ r = .overflow ∨ r = .notReady ∨ r = .halted
    | .txvec => r = .done ∨ r = .notReady ∨ r = .halted
    | .rxvec => r = .done ∨ r = .overflow ∨ r = .notReady ∨ r = .halted
    | .txdone _ => r = .done
    | .rxarr _ _ => r = .done
    | .reset => r = .done

/-! ## Frames -/

/-- 10_state R41: no operation writes the parameters; and none touches the input stream, the presented command word or
the response pins (the model's own fields, logs 6, 7, 8). -/
def Obligations.OperationsKeepTheSurroundings : Prop :=
  ∀ (i : Instr) (s t : State), exec i s = .next t → SameSurroundings s t

/-- 20_memory R55: an operation that makes no storage write leaves every cell of both storages as it reads. -/
def Obligations.NonPushingOperationsKeepStorage : Prop :=
  ∀ (s t : State) (c d : Chan) (b : Byte) (i : Instr),
    i ∈ [.nop, .pop d, .size d, .txc d, .txvec, .txdone d, .rxarr d b] → exec i s = .next t →
    ∀ a, cellAt t c a = cellAt s c a

/-- 20_memory R55, 40 R106: PUSH and XMIT write the cell `(head + count) mod C` of their channel when accepted and
no cell otherwise, and the other channel is not touched. -/
def Obligations.PushWritesOnlyTheTailCell : Prop :=
  ∀ (s t : State) (ch : Chan) (b : Byte) (i : Instr), i ∈ [.push ch b, .xmit ch b] → exec i s = .next t →
    t.chan ch.other = s.chan ch.other ∧
    (∀ a, a ≠ ((s.chan ch).head.toNat + (s.chan ch).count.toNat) % s.params.C →
      cellAt t ch a = cellAt s ch a) ∧
    (t.rsp = some .accept →
      cellAt t ch (((s.chan ch).head.toNat + (s.chan ch).count.toNat) % s.params.C) = some b) ∧
    (t.rsp ≠ some .accept → ∀ a, cellAt t ch a = cellAt s ch a)

/-- 43 R141: RXD writes one cell of the routed channel at most, and on the receiving channel, when it relays, only the
pending flag. -/
def Obligations.RxdWritesOnlyTheRoutedTailCell : Prop :=
  ∀ (s t : State) (ch d : Chan), exec (.rxd ch) s = .next t → s.params.route ch = d →
    (∀ a, a ≠ ((s.chan d).head.toNat + (s.chan d).count.toNat) % s.params.C → cellAt t d a = cellAt s d a) ∧
    (t.rsp = some .accept →
      cellAt t d (((s.chan d).head.toNat + (s.chan d).count.toNat) % s.params.C) = some (s.chan ch).rxbuf) ∧
    (t.rsp ≠ some .accept → ∀ a, cellAt t d a = cellAt s d a) ∧
    (d ≠ ch → t.chan ch = { s.chan ch with rxflag := (t.chan ch).rxflag }) ∧
    (d = ch → t.chan ch.other = s.chan ch.other)

/-- 20_memory R61: an operation on one channel writes nothing of the other and reads nothing of it: two machines that
differ only there do the same. -/
def Obligations.ChannelsAreIndependent : Prop :=
  ∀ (s u : State) (ch : Chan) (b : Byte) (i : Instr),
    i ∈ [.push ch b, .pop ch, .size ch, .xmit ch b, .txc ch, .txdone ch, .rxarr ch b] →
    u = s.setChan ch.other (u.chan ch.other) →
    ∀ t, exec i s = .next t →
      t.chan ch.other = s.chan ch.other ∧ exec i u = .next (t.setChan ch.other (u.chan ch.other))

/-- 10_state R27, R30: `ovf` and `halt` are sticky until RESET, and only an overflow in FAILSTOP mode sets `halt`. -/
def Obligations.OverflowFlagsAreSticky : Prop :=
  ∀ (i : Instr) (s t : State), i ≠ .reset → exec i s = .next t →
    (∀ ch, (s.chan ch).ovf = true → (t.chan ch).ovf = true) ∧ (s.halt = true → t.halt = true) ∧
    (s.halt = false → t.halt = true → s.params.ovfMode = .failstop ∧ t.rsp = some .overflow ∧
      ∃ ch, (t.chan ch).count.toNat = s.params.C ∧ (t.chan ch).ovf = true)

/-- 10_state R26, 60 R164: `tx_ie` is set only by a transmission into an empty queue, and cleared only by a consumer
invocation that finds the queue empty, or by RESET. -/
def Obligations.ArmedAndDisarmedOnlyWhereSaid : Prop :=
  ∀ (i : Instr) (s t : State) (ch : Chan), StateInv s → exec i s = .next t →
    ((s.chan ch).txIe = false → (t.chan ch).txIe = true → (s.chan ch).count.toNat = 0 ∧
      ((∃ b, i = .xmit ch b) ∨ (∃ src, i = .rxd src ∧ s.params.route src = ch) ∨ i = .rxvec)) ∧
    ((s.chan ch).txIe = true → (t.chan ch).txIe = false →
      i = .reset ∨ ((s.chan ch).count.toNat = 0 ∧ (i = .txc ch ∨ i = .txvec)))

/-- 42 R133, 70 R205: only a consumer writes the transmit register, only when the peripheral is ready, one byte at a
time, and the write clears the completion flag. -/
def Obligations.TransmitRegisterWrittenOnlyWhenReady : Prop :=
  ∀ (i : Instr) (s t : State) (ch : Chan), i ≠ .reset → exec i s = .next t →
    (t.chan ch).txlog = (s.chan ch).txlog ∨
    ((i = .txc ch ∨ i = .txvec) ∧ (s.chan ch).txflag = true ∧ (t.chan ch).txflag = false ∧
      ∃ v, (t.chan ch).txlog = (s.chan ch).txlog ++ [v])

/-! ## Invariants -/

/-- The invariant holds right after reset, in every configuration (10_state R38, R40). -/
def Obligations.ReachableStateHoldsAtReset : Prop :=
  ∀ p : Params, StateInv (State.resetOf p)

/-- 10_state R38 items 1, 2, 5, 6: every step keeps the invariant, whatever comes in. -/
def Obligations.EveryStepKeepsTheInvariant : Prop :=
  ∀ s t : State, StateInv s → step s = .next t → StateInv t

/-- 20_memory R58, 70 R205: where the invariant holds every operation completes. -/
def Obligations.OperationsNeverStop : Prop :=
  ∀ (i : Instr) (s : State), StateInv s → ∃ t, exec i s = .next t

/-- Where the invariant holds a step stops only when the environment breaks 30_encoding R85, pulsing `tx_done` at an
edge whose operation wrote that channel's transmit register, and never refuses. That it stops there is the model's
choice (log 10). -/
def Obligations.StepStopsOnlyOnEarlyCompletion : Prop :=
  ∀ s : State, StateInv s →
    (∃ t, step s = .next t) ∨
    ∃ ch e rest t, step s = .fault (.completedAtWrite ch) ∧ s.inputs = .edge e :: rest ∧ e.rst = false ∧
      e.txDone ch = true ∧ edgeOperation e (s.setInputs rest) = .next t ∧
      txWritten (s.setInputs rest) t ch ≠ []

/-- 10_state R38 item 3: a channel whose non-empty queue is armed stays so under every operation but a direct PUSH
on it. -/
def Obligations.NonEmptyQueueStaysArmed : Prop :=
  ∀ (i : Instr) (s t : State) (ch : Chan), Served s ch → (∀ b, i ≠ .push ch b) → exec i s = .next t → Served t ch

/-- 10_state R38 item 4, 20_memory R60: what a channel has transmitted followed by what it holds grows exactly by the
accepted bytes, in order, and nothing else changes it; RXVEC answers DONE only when it queued every pending byte. -/
def Obligations.HistoryGrowsByAcceptedBytes : Prop :=
  ∀ (s t : State) (ch : Chan), StateInv s →
    (∀ b, exec (.xmit ch b) s = .next t →
      history t ch = history s ch ++ (if t.rsp = some .accept then [some b] else [])) ∧
    (∀ src, s.params.route src = ch → exec (.rxd src) s = .next t →
      history t ch = history s ch ++ (if t.rsp = some .accept then [some (s.chan src).rxbuf] else [])) ∧
    (∀ src, s.params.route src ≠ ch → exec (.rxd src) s = .next t → history t ch = history s ch) ∧
    (exec .rxvec s = .next t → ∃ accepted : List Byte,
      accepted.Sublist
        ((if s.params.route .c0 = ch ∧ (s.chan .c0).rxflag = true then [(s.chan .c0).rxbuf] else []) ++
         (if s.params.route .c1 = ch ∧ (s.chan .c1).rxflag = true then [(s.chan .c1).rxbuf] else [])) ∧
      (t.rsp = some .done → accepted =
        (if s.params.route .c0 = ch ∧ (s.chan .c0).rxflag = true then [(s.chan .c0).rxbuf] else []) ++
        (if s.params.route .c1 = ch ∧ (s.chan .c1).rxflag = true then [(s.chan .c1).rxbuf] else [])) ∧
      history t ch = history s ch ++ accepted.map some) ∧
    (∀ (d : Chan) (b : Byte) (i : Instr),
      i ∈ [.nop, .size d, .txc d, .txvec, .txdone d, .rxarr d b, .push ch.other b, .pop ch.other, .xmit ch.other b] →
      exec i s = .next t → history t ch = history s ch)

/-- 40 R101, R102, R108 item 1: PUSH appends to the queue's contents and POP takes the oldest byte. -/
def Obligations.QueueIsFirstInFirstOut : Prop :=
  ∀ (s t : State) (ch : Chan), StateInv s →
    (∀ b, exec (.push ch b) s = .next t → t.rsp = some .accept → contents t ch = contents s ch ++ [some b]) ∧
    (∀ v, exec (.pop ch) s = .next t → t.rsp = some (.some v) → contents s ch = some v :: contents t ch)

/-- 40 R105: in reachable states `count` moves by one without wrapping, an accepted byte never finds more than
`C - 1` slots occupied, and an insert position needs no truncation. -/
def Obligations.CountNeverWraps : Prop :=
  ∀ (s t : State) (ch : Chan), StateInv s →
    (∀ b i, i ∈ [.push ch b, .xmit ch b] → exec i s = .next t → t.rsp = some .accept →
      (s.chan ch).count.toNat < s.params.C ∧ (t.chan ch).count.toNat = (s.chan ch).count.toNat + 1) ∧
    (∀ v i, i ∈ [.pop ch, .txc ch] → exec i s = .next t → t.rsp = some (.some v) →
      (t.chan ch).count.toNat + 1 = (s.chan ch).count.toNat)

/-- 40 R108 item 3, R107: accepted pushes followed by as many pops leave `count` as it was and advance `head` by
their number. -/
def Obligations.PushesThenPopsRoundTrip : Prop :=
  ∀ (s : State) (ch : Chan) (bs : List Byte), StateInv s → s.halt = false →
    (s.chan ch).count.toNat + bs.length ≤ s.params.C →
    ∃ t, execAll (bs.map (Instr.push ch) ++ List.replicate bs.length (Instr.pop ch)) s = .next t ∧
      (t.chan ch).count = (s.chan ch).count ∧
      (t.chan ch).head.toNat = ((s.chan ch).head.toNat + bs.length) % s.params.C ∧
      contents t ch = (contents s ch ++ bs.map some).drop bs.length

/-- 40 R108 item 4: `C` pushes into an empty queue are queued in order, and the next one is rejected with nothing
corrupted. -/
def Obligations.OneByteTooManyIsRejected : Prop :=
  ∀ (s : State) (ch : Chan) (bs : List Byte) (b : Byte), StateInv s → s.halt = false →
    (s.chan ch).count.toNat = 0 → bs.length = s.params.C →
    ∃ t, execAll (bs.map (Instr.push ch)) s = .next t ∧ contents t ch = bs.map some ∧
      exec (.push ch b) t = .next (t.respond .reject)

/-! ## The transmit protocol -/

/-- 42 R136: the rows of the transmit state machine. -/
def Obligations.TransmitStateMachine : Prop :=
  ∀ (s t : State) (ch : Chan), StateInv s → s.halt = false →
    (∀ b, exec (.xmit ch b) s = .next t → t.rsp = some .accept → txState s ch ≠ .stranded →
      txState t ch = .armed) ∧
    (∀ b, exec (.xmit ch b) s = .next t → t.rsp = some .overflow → txState t ch = txState s ch) ∧
    (exec (.txc ch) s = .next t → txState s ch = .armed → (s.chan ch).txflag = true →
      txState t ch = if (s.chan ch).count.toNat = 1 then .draining else .armed) ∧
    (exec (.txc ch) s = .next t → txState s ch = .draining → (s.chan ch).txflag = true → txState t ch = .idle) ∧
    (exec (.txc ch) s = .next t → txState s ch = .idle → t = s.respond .notReady) ∧
    (exec .txvec s = .next t → txState s ch = .idle → t.chan ch = s.chan ch)

/-- 42 R135: on channels without a direct PUSH, TXVEC does to each channel what TXC does if it is enabled, and
nothing otherwise. -/
def Obligations.SharedVectorAgreesWithTxc : Prop :=
  ∀ (s t : State) (ch : Chan), s.halt = false → (∀ c, Served s c) → irqTx s = true → exec .txvec s = .next t →
    if txRequest s ch = true then ∃ u, exec (.txc ch) s = .next u ∧ t.chan ch = u.chan ch
    else t.chan ch = s.chan ch

/-- 42 R137, R138, 30_encoding R87: SERVE once for each queued byte and once more takes an armed channel to Idle and
puts every queued byte into `txlog`, in order, the last TXC answering NONE. -/
def Obligations.DrainTransmitsEverything : Prop :=
  ∀ (s : State) (ch : Chan), StateInv s → s.halt = false → (s.chan ch).txIe = true →
    ∃ t, execAll
        ((List.replicate ((s.chan ch).count.toNat + 1) [Instr.txdone ch, Instr.txc ch]).flatten) s = .next t ∧
      txState t ch = .idle ∧ t.rsp = some .none ∧ (t.chan ch).txlog.map some = history s ch

/-- 42 R137: from Idle, a burst of `n` accepted bytes needs `n + 1` consumer invocations: after `n` the channel is
Draining, still armed, and the last one disarms it; the bytes are transmitted in the order of the XMITs. -/
def Obligations.BurstTakesOneInvocationMore : Prop :=
  ∀ (s : State) (ch : Chan) (bs : List Byte), StateInv s → s.halt = false → txState s ch = .idle →
    bs ≠ [] → bs.length ≤ s.params.C →
    ∃ t u, execAll (bs.map (Instr.xmit ch) ++
        (List.replicate bs.length [Instr.txdone ch, Instr.txc ch]).flatten) s = .next t ∧
      txState t ch = .draining ∧ (t.chan ch).txlog = (s.chan ch).txlog ++ bs ∧
      execAll [.txdone ch, .txc ch] t = .next u ∧ txState u ch = .idle ∧
      (u.chan ch).txlog = (s.chan ch).txlog ++ bs

/-- 42 R138: under both fairness assumptions, on a run that never halts, everything a channel has accepted appears in
`txlog` in the end. The run holds no RESET and no direct PUSH or POP on the channel. -/
def Obligations.EveryAcceptedByteIsTransmitted : Prop :=
  ∀ (r : Run) (ch : Chan), r.legal → r.completes ch → r.servesTransmit ch → StateInv (r.state 0) →
    Served (r.state 0) ch → (∀ n, (r.state n).halt = false) →
    (∀ n, r.op n ≠ .reset ∧ r.op n ≠ .pop ch ∧ ∀ b, r.op n ≠ .push ch b) →
    ∀ n, ∃ m, n ≤ m ∧ history (r.state n) ch <+: ((r.state m).chan ch).txlog.map some

/-- 42 R138: under both fairness assumptions a channel that gets no further transmission returns to Idle. Receive
handlers may run, as long as no byte they read is routed to the channel. -/
def Obligations.ChannelReturnsToIdle : Prop :=
  ∀ (r : Run) (ch : Chan), r.legal → r.completes ch → r.servesTransmit ch → StateInv (r.state 0) →
    Served (r.state 0) ch → (∀ n, (r.state n).halt = false) →
    (∀ n, r.op n ≠ .reset ∧ r.op n ≠ .pop ch ∧ (∀ b, r.op n ≠ .push ch b ∧ r.op n ≠ .xmit ch b) ∧
      (∀ src, r.op n = .rxd src → (r.state n).params.route src ≠ ch) ∧
      (r.op n = .rxvec → ∀ src, ((r.state n).chan src).rxflag = true → (r.state n).params.route src ≠ ch)) →
    ∃ m, txState (r.state m) ch = .idle

/-- 70 R212: under the fairness of the receive handlers, on a run without halt or RESET, a pending receive register is
eventually read: a handler of the channel runs while it is pending and clears the flag. The byte it then holds is
the one it held, unless one arrived in between (an overrun loses one of the two, R214). -/
def Obligations.EveryPendingByteIsRead : Prop :=
  ∀ (r : Run) (ch : Chan), r.legal → r.servesReceive ch → (∀ n, (r.state n).halt = false) → (∀ n, r.op n ≠ .reset) →
    ∀ n, ((r.state n).chan ch).rxflag = true →
      ∃ m, n ≤ m ∧ (r.op m = .rxd ch ∨ r.op m = .rxvec) ∧ ((r.state m).chan ch).rxflag = true ∧
        ((r.state (m + 1)).chan ch).rxflag = false ∧
        ((∀ k b, n ≤ k → k < m → r.op k ≠ .rxarr ch b) →
          ((r.state m).chan ch).rxbuf = ((r.state n).chan ch).rxbuf)

/-! ## Outputs, reset and the clock edge -/

/-- 10_state R35: the bits of the status byte, and its reset value. -/
def Obligations.StatusByteShowsTheState : Prop :=
  (∀ (s : State) (ch : Chan),
    (status s ch).getLsbD 0 = decide ((s.chan ch).count.toNat = 0) ∧
    (status s ch).getLsbD 1 = decide ((s.chan ch).count.toNat = s.params.C) ∧
    (status s ch).getLsbD 2 = (s.chan ch).txIe ∧ (status s ch).getLsbD 3 = (s.chan ch).txflag ∧
    (status s ch).getLsbD 4 = (s.chan ch).rxflag ∧ (status s ch).getLsbD 5 = (s.chan ch).ovf ∧
    (status s ch).getLsbD 6 = false ∧ (status s ch).getLsbD 7 = s.halt) ∧
  (∀ (p : Params) (ch : Chan), status (State.resetOf p) ch = 0x09)

/-- 10_state R36, R23, R25: the queue outputs, the derived tail, and that no queue is both empty and full. -/
def Obligations.QueueOutputsShowTheRegisters : Prop :=
  ∀ (s : State) (ch : Chan),
    countOut s ch = (s.chan ch).count ∧ headOut s ch = (s.chan ch).head ∧
    (tailOut s ch).toNat = ((s.chan ch).head.toNat + (s.chan ch).count.toNat) % s.params.C ∧
    (s.halt = false → exec (.size ch) s = .next (s.respond (.count (countOut s ch)))) ∧
    ¬ (empty s ch = true ∧ full s ch = true)

/-- 10_state R37: the two request lines; and the handlers the block can start (60 R163, R167): with shared vectors
TXVEC and RXVEC on those lines, with dedicated vectors TXC and RXD of each channel on its own request, no other. -/
def Obligations.RequestLinesFollowTheFlags : Prop :=
  ∀ s : State,
    (irqTx s = true ↔ ¬ s.halt = true ∧
      ((s.ch0.txIe = true ∧ s.ch0.txflag = true) ∨ (s.ch1.txIe = true ∧ s.ch1.txflag = true))) ∧
    (irqRx s = true ↔ ¬ s.halt = true ∧ (s.ch0.rxflag = true ∨ s.ch1.rxflag = true)) ∧
    (s.params.sharedVec = true → ∀ i, i ∈ enabledHandlers s ↔
      (i = .txvec ∧ irqTx s = true) ∨ (i = .rxvec ∧ irqRx s = true)) ∧
    (s.params.sharedVec = false → ∀ i, i ∈ enabledHandlers s ↔ ∃ ch,
      (i = .txc ch ∧ ¬ s.halt = true ∧ (s.chan ch).txIe = true ∧ (s.chan ch).txflag = true) ∨
      (i = .rxd ch ∧ ¬ s.halt = true ∧ (s.chan ch).rxflag = true))

/-- 70 R192: after reset both channels are Idle and ready, nothing is pending, recorded, transmitted or enabled, and
with nothing coming in a step changes no element of the tuple. -/
def Obligations.ResetStateIsQuiet : Prop :=
  ∀ p : Params,
    (∀ ch, txState (State.resetOf p) ch = .idle ∧ ((State.resetOf p).chan ch).txflag = true ∧
      ((State.resetOf p).chan ch).rxflag = false ∧ ((State.resetOf p).chan ch).ovf = false ∧
      ((State.resetOf p).chan ch).txlog = []) ∧
    (State.resetOf p).halt = false ∧ irqTx (State.resetOf p) = false ∧ irqRx (State.resetOf p) = false ∧
    ∃ t, step (State.resetOf p) = .next t ∧ SameTuple (State.resetOf p) t

/-- 00_scope R8, U5: a configuration exists for exactly the capacities 1 to 255. -/
def Obligations.BuildContractIsEnforced : Prop :=
  (∀ r : RawParams, r.wf = true ↔ ∃ p, r.build? = some p) ∧
  (∀ (r : RawParams) (p : Params), r.build? = some p → p.C = r.capacity) ∧
  (∀ p : Params, 1 ≤ p.C ∧ p.C < 2 ^ 8)

/-- 30_encoding R83, D15: on the command port a word of a block-started or an environment operation answers ILLEGAL
and changes nothing; a host operation is executed. This is over all states: that such a word answers ILLEGAL and not
HALTED in a halted machine is the model's choice (log 13: R83 and 60 R169 against 60 R173). -/
def Obligations.CommandPortTakesHostOperationsOnly : Prop :=
  ∀ (w : Word) (i : Instr) (s : State), decode w = .op i →
    ((∃ ch b, i = .push ch b ∨ i = .pop ch ∨ i = .size ch ∨ i = .xmit ch b) ∨ i = .nop ∨ i = .reset →
      runPortWord w s = exec i s) ∧
    ((∃ ch b, i = .txc ch ∨ i = .rxd ch ∨ i = .txdone ch ∨ i = .rxarr ch b) ∨ i = .txvec ∨ i = .rxvec →
      runPortWord w s = .next (s.respond .illegal))

/-- 42 R130, 43 R140: the block starts only handlers whose enabling condition holds. -/
def Obligations.OnlyEnabledHandlersStart : Prop :=
  ∀ (s t : State) (i : Instr), i ∈ enabledHandlers s → exec i s = .next t →
    s.halt = false ∧ t.rsp ≠ some .notReady ∧ t.rsp ≠ some .halted

/-- 30_encoding R84, R85, 70 R190: an edge with `rst` set performs RESET and nothing else; any other edge that completes
is a short run of single operations: one operation or none, then the pulses' events in order, unless the operation is
RESET (log 11). The operation is what the arbiter chose: an enabled handler, or the presented word where the command
port takes it; none when it chose a word the port answers ILLEGAL, or when nothing was possible (60 R168). -/
def Obligations.EdgeIsAShortRun : Prop :=
  ∀ (e : Edge) (s : State),
    (e.rst = true → ∃ t u, clockEdge e s = .next t ∧ exec .reset s = .next u ∧ SameTuple u t) ∧
    (e.rst = false → ∀ t, clockEdge e s = .next t →
      ∃ (op : List Instr) (u : State), op.length ≤ 1 ∧
        ((∃ i ∈ enabledHandlers s, arbitrate e s = some (.handler i) ∧ op = [i]) ∨
         (∃ w i, presentedWord e s = some w ∧ arbitrate e s = some (.host w) ∧ decode w = .op i ∧
           Context.mainline.starts i = true ∧ op = [i]) ∨
         (∃ w, presentedWord e s = some w ∧ arbitrate e s = some (.host w) ∧
           (∀ i, decode w = .op i → Context.mainline.starts i = false) ∧ op = []) ∨
         (enabledHandlers s = [] ∧ presentedWord e s = none ∧ op = [])) ∧
        execAll (op ++ (if op = [.reset] then [] else e.events)) s = .next u ∧ SameTuple u t)

/-- 30_encoding R84: a presented word that is not executed stays presented, and an executed one does not. -/
def Obligations.UngrantedWordStaysPresented : Prop :=
  ∀ (e : Edge) (s t : State), clockEdge e s = .next t →
    t.cmdHeld = if cmdReady e s = true then none else presentedWord e s

/-- 60 R168: what the arbiter can choose at an edge is exactly each enabled handler and the presented word, some value of
the edge's `grant` (log 9) makes each choice, and every value makes one unless nothing is possible. -/
def Obligations.ArbiterAdmitsEveryChoice : Prop :=
  ∀ (e : Edge) (s : State),
    (∀ i, i ∈ enabledHandlers s ↔ ∃ g, arbitrate { e with grant := g } s = some (.handler i)) ∧
    (∀ w, presentedWord e s = some w ↔ ∃ g, arbitrate { e with grant := g } s = some (.host w)) ∧
    (arbitrate e s = none ↔ enabledHandlers s = [] ∧ presentedWord e s = none)
end

