-- ==== Sys2Proof/Laws/Decode.lean ====
section
/-! SUPPORT. The fields of a packed word, and the word of a legal word's fields (30_encoding R71, R88). -/

namespace Sys2Proof

theorem dataOf_packWord (m : Mnemonic) (ch : Chan) (d : Byte) : dataOf (packWord m.opc ch d) = d := by
  apply BitVec.eq_of_getLsbD_eq
  intro i hi
  cases m <;> cases ch <;> simp [dataOf, packWord, Chan.num, Mnemonic.opc, hi] <;> interval_cases i <;> simp

theorem rsvOf_packWord (m : Mnemonic) (ch : Chan) (d : Byte) : rsvOf (packWord m.opc ch d) = 0 := by
  apply BitVec.eq_of_getLsbD_eq
  intro i hi
  cases m <;> cases ch <;> simp [rsvOf, packWord, Chan.num, Mnemonic.opc, hi] <;> interval_cases i <;> simp

theorem chOf_packWord (m : Mnemonic) (ch : Chan) (d : Byte) : chOf (packWord m.opc ch d) = ch := by
  cases m <;> cases ch <;> simp [chOf, packWord, Chan.num, Mnemonic.opc]

theorem opcOf_packWord (m : Mnemonic) (ch : Chan) (d : Byte) : opcOf (packWord m.opc ch d) = m.opc := by
  have h : (packWord m.opc ch d).extractLsb' 12 4 = BitVec.ofNat 4 m.opc := by
    apply BitVec.eq_of_getLsbD_eq
    intro i hi
    cases m <;> cases ch <;> simp [packWord, Chan.num, Mnemonic.opc, hi] <;> interval_cases i <;> simp
  unfold opcOf
  rw [h]
  cases m <;> rfl

theorem mnemonicOf_opc (m : Mnemonic) : mnemonicOf m.opc = some m := by cases m <;> decide

theorem mnemonicOf_some {n : Nat} {m : Mnemonic} (h : mnemonicOf n = some m) : m.opc = n := by
  simpa using List.find?_some h

/-- A word whose reserved bits are 0 is its fields packed. -/
theorem packWord_fields (w : Word) (h : rsvOf w = 0) : packWord (opcOf w) (chOf w) (dataOf w) = w := by
  have h9 : w.getLsbD 9 = false := by simpa [rsvOf] using congrArg (·.getLsbD 0) h
  have h10 : w.getLsbD 10 = false := by simpa [rsvOf] using congrArg (·.getLsbD 1) h
  have h11 : w.getLsbD 11 = false := by simpa [rsvOf] using congrArg (·.getLsbD 2) h
  have ho : BitVec.ofNat 16 (opcOf w) = (w.extractLsb' 12 4).setWidth 16 := by
    apply BitVec.eq_of_toNat_eq
    simp [opcOf]
  apply BitVec.eq_of_getLsbD_eq
  intro i hi
  unfold packWord
  rw [ho]
  cases hc : w.getLsbD 8 <;> simp [chOf, hc, Chan.num, dataOf] <;> interval_cases i <;> simp_all

end Sys2Proof
end

