-- ==== Sys2Proof/Laws/State.lean ====
section
/-! SUPPORT. The small lemmas of the state: each field after each update. -/

namespace Sys2Proof.Machine

@[simp] theorem Chan_other_ne (c : Chan) : c.other ≠ c := by cases c <;> decide

@[simp] theorem Chan_other_other (c : Chan) : c.other.other = c := by cases c <;> rfl

theorem Chan_eq_or_other (a b : Chan) : a = b ∨ a = b.other := by cases a <;> cases b <;> decide

theorem Params_C_pos (p : Params) : 0 < p.C := Nat.succ_pos _

theorem Params_C_le (p : Params) : p.C ≤ 255 := p.lastIndex.isLt

section respond
variable (s : State) (r : Response)

@[simp] theorem respond_params : (s.respond r).params = s.params := rfl
@[simp] theorem respond_chan (c : Chan) : (s.respond r).chan c = s.chan c := by cases c <;> rfl
@[simp] theorem respond_halt : (s.respond r).halt = s.halt := rfl
@[simp] theorem respond_rsp : (s.respond r).rsp = some r := rfl
@[simp] theorem respond_portRsp : (s.respond r).portRsp = s.portRsp := rfl
@[simp] theorem respond_cmdHeld : (s.respond r).cmdHeld = s.cmdHeld := rfl
@[simp] theorem respond_inputs : (s.respond r).inputs = s.inputs := rfl
@[simp] theorem respond_free : (s.respond r).free = s.free := rfl

theorem setChan_respond (c : Chan) (x : Channel) :
    (s.respond r).setChan c x = (s.setChan c x).respond r := by cases c <;> rfl

@[simp] theorem respond_respond (q : Response) : (s.respond r).respond q = s.respond q := rfl

end respond

section setChan
variable (s : State) (c d : Chan) (x y : Channel)

@[simp] theorem setChan_params : (s.setChan c x).params = s.params := by cases c <;> rfl
@[simp] theorem setChan_halt : (s.setChan c x).halt = s.halt := by cases c <;> rfl
@[simp] theorem setChan_rsp : (s.setChan c x).rsp = s.rsp := by cases c <;> rfl
@[simp] theorem setChan_portRsp : (s.setChan c x).portRsp = s.portRsp := by cases c <;> rfl
@[simp] theorem setChan_cmdHeld : (s.setChan c x).cmdHeld = s.cmdHeld := by cases c <;> rfl
@[simp] theorem setChan_inputs : (s.setChan c x).inputs = s.inputs := by cases c <;> rfl
@[simp] theorem setChan_free : (s.setChan c x).free = s.free := by cases c <;> rfl
@[simp] theorem chan_setChan_same : (s.setChan c x).chan c = x := by cases c <;> rfl
@[simp] theorem chan_setChan_other : (s.setChan c x).chan c.other = s.chan c.other := by cases c <;> rfl

theorem chan_setChan : (s.setChan c x).chan d = if d = c then x else s.chan d := by
  cases c <;> cases d <;> rfl

theorem chan_setChan_ne (h : d ≠ c) : (s.setChan c x).chan d = s.chan d := by
  rw [chan_setChan, if_neg h]

@[simp] theorem setChan_setChan_same : (s.setChan c x).setChan c y = s.setChan c y := by cases c <;> rfl
@[simp] theorem setChan_chan_self : s.setChan c (s.chan c) = s := by cases c <;> rfl

end setChan

/-- One spelling for a channel's state: `s.chan`. -/
@[simp] theorem ch0_eq_chan (s : State) : s.ch0 = s.chan .c0 := rfl

@[simp] theorem ch1_eq_chan (s : State) : s.ch1 = s.chan .c1 := rfl

@[simp] theorem chan_c0_setChan_c1 (s : State) (x : Channel) : (s.setChan .c1 x).chan .c0 = s.chan .c0 := rfl

@[simp] theorem chan_c1_setChan_c0 (s : State) (x : Channel) : (s.setChan .c0 x).chan .c1 = s.chan .c1 := rfl

section setHalt
variable (s : State) (c : Chan) (x : Channel) (h : Bool)

@[simp] theorem setHalt_params : (s.setHalt h).params = s.params := rfl
@[simp] theorem setHalt_halt : (s.setHalt h).halt = h := rfl
@[simp] theorem setHalt_rsp : (s.setHalt h).rsp = s.rsp := rfl
@[simp] theorem setHalt_portRsp : (s.setHalt h).portRsp = s.portRsp := rfl
@[simp] theorem setHalt_cmdHeld : (s.setHalt h).cmdHeld = s.cmdHeld := rfl
@[simp] theorem setHalt_inputs : (s.setHalt h).inputs = s.inputs := rfl
@[simp] theorem setHalt_free : (s.setHalt h).free = s.free := rfl
@[simp] theorem setHalt_chan : (s.setHalt h).chan c = s.chan c := by cases c <;> rfl
theorem setChan_setHalt : (s.setHalt h).setChan c x = (s.setChan c x).setHalt h := by cases c <;> rfl

end setHalt

section setFree
variable (s : State) (c : Chan) (x : Channel) (n : Nat)

@[simp] theorem setFree_params : (s.setFree n).params = s.params := rfl
@[simp] theorem setFree_halt : (s.setFree n).halt = s.halt := rfl
@[simp] theorem setFree_rsp : (s.setFree n).rsp = s.rsp := rfl
@[simp] theorem setFree_portRsp : (s.setFree n).portRsp = s.portRsp := rfl
@[simp] theorem setFree_cmdHeld : (s.setFree n).cmdHeld = s.cmdHeld := rfl
@[simp] theorem setFree_inputs : (s.setFree n).inputs = s.inputs := rfl
@[simp] theorem setFree_free : (s.setFree n).free = n := rfl
@[simp] theorem setFree_chan : (s.setFree n).chan c = s.chan c := by cases c <;> rfl
theorem setChan_setFree : (s.setFree n).setChan c x = (s.setChan c x).setFree n := by cases c <;> rfl

end setFree

section setInputs
variable (s : State) (c : Chan) (x : Channel) (l : List Input)

@[simp] theorem setInputs_params : (s.setInputs l).params = s.params := rfl
@[simp] theorem setInputs_halt : (s.setInputs l).halt = s.halt := rfl
@[simp] theorem setInputs_rsp : (s.setInputs l).rsp = s.rsp := rfl
@[simp] theorem setInputs_portRsp : (s.setInputs l).portRsp = s.portRsp := rfl
@[simp] theorem setInputs_cmdHeld : (s.setInputs l).cmdHeld = s.cmdHeld := rfl
@[simp] theorem setInputs_inputs : (s.setInputs l).inputs = l := rfl
@[simp] theorem setInputs_free : (s.setInputs l).free = s.free := rfl
@[simp] theorem setInputs_chan : (s.setInputs l).chan c = s.chan c := by cases c <;> rfl
theorem setChan_setInputs : (s.setInputs l).setChan c x = (s.setChan c x).setInputs l := by cases c <;> rfl

end setInputs

section setPort
variable (s : State) (c : Chan) (x : Channel) (w : Option Word) (r : Option Response)

@[simp] theorem setPort_params : (s.setPort w r).params = s.params := rfl
@[simp] theorem setPort_halt : (s.setPort w r).halt = s.halt := rfl
@[simp] theorem setPort_rsp : (s.setPort w r).rsp = s.rsp := rfl
@[simp] theorem setPort_portRsp : (s.setPort w r).portRsp = r := rfl
@[simp] theorem setPort_cmdHeld : (s.setPort w r).cmdHeld = w := rfl
@[simp] theorem setPort_inputs : (s.setPort w r).inputs = s.inputs := rfl
@[simp] theorem setPort_free : (s.setPort w r).free = s.free := rfl
@[simp] theorem setPort_chan : (s.setPort w r).chan c = s.chan c := by cases c <;> rfl
theorem setChan_setPort : (s.setPort w r).setChan c x = (s.setChan c x).setPort w r := by cases c <;> rfl

end setPort

theorem setHalt_of_eq (s : State) (h : Bool) (e : s.halt = h) : s.setHalt h = s := by
  subst e
  rfl

section reset
variable (p : Params) (c : Chan)

@[simp] theorem resetOf_params : (State.resetOf p).params = p := rfl
@[simp] theorem resetOf_chan : (State.resetOf p).chan c = Channel.resetWith 0 := by cases c <;> rfl
@[simp] theorem resetOf_halt : (State.resetOf p).halt = false := rfl
@[simp] theorem resetOf_inputs : (State.resetOf p).inputs = [] := rfl

end reset

end Sys2Proof.Machine
end

