-- ==== Sys2Proof/Laws/Storage.lean ====
section
/-! SUPPORT. The laws of a storage: read after write, and every write keeps the canonical form. -/

namespace Sys2Proof.Machine

@[simp] theorem read_nil (i : Nat) : Storage.read [] i = none := rfl

/-- A read of the written cell gives the byte written. -/
@[simp] theorem read_write_same (m : Storage) (i : Nat) (v : Byte) :
    Storage.read (Storage.write m i v) i = some v := by
  induction m with
  | nil => simp [Storage.write, Storage.read]
  | cons c rest ih =>
    obtain ⟨j, u⟩ := c
    simp only [Storage.write]
    split
    · simp [Storage.read]
    · split
      · simp [Storage.read]
      · rename_i _ hij
        simp [Storage.read, hij, ih]

/-- A read of any other cell gives what it gave before the write. -/
theorem read_write_other (m : Storage) (i j : Nat) (v : Byte) (h : j ≠ i) :
    Storage.read (Storage.write m i v) j = Storage.read m j := by
  induction m with
  | nil => simp [Storage.write, Storage.read, h]
  | cons c rest ih =>
    obtain ⟨k, u⟩ := c
    simp only [Storage.write]
    split
    · simp [Storage.read, h]
    · split
      · rename_i _ hik
        subst hik
        simp [Storage.read, h]
      · simp [Storage.read, ih]

theorem risesFrom_weaken {lo hi : Nat} (m : Storage) (h : lo ≤ hi)
    (hm : Storage.risesFrom hi m = true) : Storage.risesFrom lo m = true := by
  cases m with
  | nil => rfl
  | cons c rest =>
    simp only [Storage.risesFrom, Bool.and_eq_true, decide_eq_true_eq] at hm ⊢
    exact ⟨h.trans hm.1, hm.2⟩

theorem write_risesFrom (m : Storage) (lo i : Nat) (v : Byte) (hi : lo ≤ i)
    (hm : Storage.risesFrom lo m = true) : Storage.risesFrom lo (Storage.write m i v) = true := by
  induction m generalizing lo with
  | nil => simp [Storage.write, Storage.risesFrom, hi]
  | cons c rest ih =>
    obtain ⟨j, u⟩ := c
    simp only [Storage.risesFrom, Bool.and_eq_true, decide_eq_true_eq] at hm
    simp only [Storage.write]
    split
    · rename_i hij
      simp [Storage.risesFrom, hi, hm.2, Nat.succ_le_of_lt hij]
    · split
      · rename_i _ hij
        subst hij
        simp [Storage.risesFrom, hi, hm.2]
      · rename_i h1 h2
        simp [Storage.risesFrom, hm.1, ih (j + 1) (by omega) hm.2]

/-- A write keeps the canonical form. -/
theorem write_wf (m : Storage) (i : Nat) (v : Byte) (h : Memory.wf m = true) :
    Memory.wf (Storage.write m i v) = true := write_risesFrom m 0 i v (Nat.zero_le i) h

/-- A write to an existing cell lists existing cells only. -/
theorem write_within (C : Nat) (m : Storage) (i : Nat) (v : Byte) (hi : i < C)
    (h : Storage.within C m = true) : Storage.within C (Storage.write m i v) = true := by
  induction m with
  | nil => simp [Storage.write, Storage.within, hi]
  | cons c rest ih =>
    obtain ⟨j, u⟩ := c
    simp only [Storage.within, List.all_cons, Bool.and_eq_true, decide_eq_true_eq] at h ih ⊢
    simp only [Storage.write]
    split
    · simp [hi, h.1, h.2]
    · split
      · simp [hi, h.2]
      · simp [h.1, ih h.2]

/-- In canonical form no index below the bound is listed. -/
theorem read_below (m : Storage) (lo i : Nat) (hi : i < lo) (hm : Storage.risesFrom lo m = true) :
    Storage.read m i = none := by
  induction m generalizing lo with
  | nil => rfl
  | cons c rest ih =>
    obtain ⟨j, u⟩ := c
    simp only [Storage.risesFrom, Bool.and_eq_true, decide_eq_true_eq] at hm
    have hne : i ≠ j := by omega
    simp [Storage.read, hne, ih (j + 1) (by omega) hm.2]

theorem eq_of_read_eq_risesFrom (m n : Storage) (lo : Nat) (hm : Storage.risesFrom lo m = true)
    (hn : Storage.risesFrom lo n = true) (h : ∀ i, Storage.read m i = Storage.read n i) : m = n := by
  induction m generalizing n lo with
  | nil =>
    cases n with
    | nil => rfl
    | cons c rest => simpa [Storage.read] using h c.1
  | cons c rest ih =>
    obtain ⟨j, u⟩ := c
    simp only [Storage.risesFrom, Bool.and_eq_true, decide_eq_true_eq] at hm
    cases n with
    | nil => simpa [Storage.read] using h j
    | cons d tail =>
      obtain ⟨k, v⟩ := d
      simp only [Storage.risesFrom, Bool.and_eq_true, decide_eq_true_eq] at hn
      have hjk : j = k := by
        rcases Nat.lt_trichotomy j k with hlt | heq | hlt
        · have := h j
          simp [Storage.read, Nat.ne_of_lt hlt, read_below tail (k + 1) j (by omega) hn.2] at this
        · exact heq
        · have := h k
          simp [Storage.read, Nat.ne_of_lt hlt, read_below rest (j + 1) k (by omega) hm.2] at this
      subst hjk
      have huv : u = v := by simpa [Storage.read] using h j
      subst huv
      have hrest : rest = tail := by
        refine ih tail (j + 1) hm.2 hn.2 (fun i => ?_)
        by_cases hij : i = j
        · subst hij
          rw [read_below rest (i + 1) i (by omega) hm.2, read_below tail (i + 1) i (by omega) hn.2]
        · simpa [Storage.read, hij] using h i
      rw [hrest]

/-- Storages in canonical form that read alike are the same data. -/
theorem eq_of_read_eq (m n : Storage) (hm : Memory.wf m = true) (hn : Memory.wf n = true)
    (h : ∀ i, Storage.read m i = Storage.read n i) : m = n :=
  eq_of_read_eq_risesFrom m n 0 hm hn h

/-- The storage after reset has the canonical form. -/
theorem reset_wf (p : Params) (c : Chan) : Memory.wf ((State.resetOf p).chan c).storage = true := by
  cases c <;> rfl

end Sys2Proof.Machine
end

