-- ==== Sys2Proof/Laws/Ops.lean ====
section
/-! SUPPORT. What each shared operation can do, said once. -/

namespace Sys2Proof.Machine

/-- The insert position is a cell of the storage (20_memory R54). -/
theorem tail_lt (s : State) (ch : Chan) : s.tail ch < s.params.C := Nat.mod_lt _ (Params_C_pos _)

/-- A channel with a byte appended at the tail (40 R101). -/
theorem push_room (ch : Chan) (b : Byte) (s : State) (h : (s.chan ch).count.toNat ≠ s.params.C) :
    push ch b s = some (s.setChan ch { s.chan ch with
      storage := Storage.write (s.chan ch).storage (s.tail ch) b,
      count := BitVec.ofNat 8 ((s.chan ch).count.toNat + 1) }) := by
  simp [push, h, memWrite]

/-- A full queue rejects (40 R101). -/
theorem push_full (ch : Chan) (b : Byte) (s : State) (h : (s.chan ch).count.toNat = s.params.C) :
    push ch b s = none := by
  simp [push, h]

/-- An empty queue gives nothing (40 R102). -/
theorem pop_empty (ch : Chan) (s : State) (h : (s.chan ch).count = 0) : pop ch s = .ok (s, none) := by
  simp [pop, h]

theorem memRead_written (ch : Chan) (i : Nat) (v : Byte) (s : State) (hi : i < s.params.C)
    (hv : cellAt s ch i = some v) : memRead s ch i = .ok v := by
  simp only [cellAt] at hv
  simp [memRead, hi, hv]

/-- A queue that holds a byte gives the one at `head` (40 R102). -/
theorem pop_some (ch : Chan) (v : Byte) (s : State) (h : (s.chan ch).count ≠ 0)
    (hh : (s.chan ch).head.toNat < s.params.C) (hv : cellAt s ch (s.chan ch).head.toNat = some v) :
    pop ch s = .ok (s.setChan ch { s.chan ch with
      head := BitVec.ofNat 8 (((s.chan ch).head.toNat + 1) % s.params.C),
      count := BitVec.ofNat 8 ((s.chan ch).count.toNat - 1) }, some v) := by
  simp only [pop, h, if_false, memRead_written ch _ v s hh hv]

/-- Everything a pop that does not fault can do (40 R102). -/
theorem pop_cases {ch : Chan} {s t : State} {o : Option Byte} (h : pop ch s = .ok (t, o)) :
    ((s.chan ch).count = 0 ∧ t = s ∧ o = none) ∨
    (∃ v, (s.chan ch).count ≠ 0 ∧ (s.chan ch).head.toNat < s.params.C ∧
      cellAt s ch (s.chan ch).head.toNat = some v ∧ o = some v ∧
      t = s.setChan ch { s.chan ch with
        head := BitVec.ofNat 8 (((s.chan ch).head.toNat + 1) % s.params.C),
        count := BitVec.ofNat 8 ((s.chan ch).count.toNat - 1) }) := by
  by_cases hc : (s.chan ch).count = 0
  · rw [pop_empty ch s hc] at h
    cases h
    exact .inl ⟨hc, rfl, rfl⟩
  · right
    simp only [pop, hc, if_false, memRead] at h
    by_cases hi : (s.chan ch).head.toNat < s.params.C
    · cases hv : Storage.read (s.chan ch).storage (s.chan ch).head.toNat with
      | none => simp [hi, hv] at h
      | some v =>
        simp only [hi, if_true, hv, Except.ok.injEq, Prod.mk.injEq] at h
        exact ⟨v, hc, hi, hv, h.2.symm, h.1.symm⟩
    · simp [hi] at h

/-- Taking QueueOverflow in FAILSTOP mode (60 R170). -/
theorem raiseQueueOverflow_failstop (ch : Chan) (s : State) (h : s.params.ovfMode = .failstop) :
    raiseQueueOverflow ch s = (s.setChan ch { s.chan ch with ovf := true }).setHalt true := by
  simp [raiseQueueOverflow, h]

/-- Taking QueueOverflow in REPORT mode (60 R171). -/
theorem raiseQueueOverflow_report (ch : Chan) (s : State) (h : s.params.ovfMode = .report) :
    raiseQueueOverflow ch s = s.setChan ch { s.chan ch with ovf := true } := by
  simp [raiseQueueOverflow, h]

/-- Taking QueueOverflow writes `ovf` of the channel and nothing else but, in FAILSTOP mode, `halt`. -/
theorem raiseQueueOverflow_eq (ch : Chan) (s : State) :
    raiseQueueOverflow ch s = (s.setChan ch { s.chan ch with ovf := true }).setHalt
      (s.halt || decide (s.params.ovfMode = .failstop)) := by
  cases hm : s.params.ovfMode
  · simp [raiseQueueOverflow, hm]
  · rw [raiseQueueOverflow_report ch s hm, setHalt_of_eq]
    simp

theorem ofNat_succ_eq_one (c : QReg) : BitVec.ofNat 8 (c.toNat + 1) = 1 ↔ c = 0 := by
  bv_omega

/-- An accepted XMIT queues the byte and arms when the queue was empty (41 R121, R124). -/
theorem xmit_room (ch : Chan) (b : Byte) (s : State) (h : (s.chan ch).count.toNat ≠ s.params.C) :
    xmit ch b s = (s.setChan ch { s.chan ch with
      storage := Storage.write (s.chan ch).storage (s.tail ch) b,
      count := BitVec.ofNat 8 ((s.chan ch).count.toNat + 1),
      txIe := if (s.chan ch).count = 0 then true else (s.chan ch).txIe }, .accept) := by
  simp only [xmit, push_room ch b s h, size, chan_setChan_same, arm]
  by_cases hc : (s.chan ch).count = 0
  · simp [hc]
  · have h1 : BitVec.ofNat 8 ((s.chan ch).count.toNat + 1) ≠ 1 := fun e => hc ((ofNat_succ_eq_one _).1 e)
    rw [if_neg h1, if_neg hc]

/-- An XMIT on a full queue takes QueueOverflow (41 R122, R123). -/
theorem xmit_full (ch : Chan) (b : Byte) (s : State) (h : (s.chan ch).count.toNat = s.params.C) :
    xmit ch b s = (raiseQueueOverflow ch s, .overflow) := by
  simp only [xmit, push_full ch b s h]

/-- Everything an XMIT can do (41 R121). -/
theorem xmit_cases {ch : Chan} {b : Byte} {s t : State} {r : Response} (h : xmit ch b s = (t, r)) :
    ((s.chan ch).count.toNat = s.params.C ∧ r = .overflow ∧
      t = (s.setChan ch { s.chan ch with ovf := true }).setHalt
        (s.halt || decide (s.params.ovfMode = .failstop))) ∨
    ((s.chan ch).count.toNat ≠ s.params.C ∧ r = .accept ∧ t = s.setChan ch { s.chan ch with
      storage := Storage.write (s.chan ch).storage (s.tail ch) b,
      count := BitVec.ofNat 8 ((s.chan ch).count.toNat + 1),
      txIe := if (s.chan ch).count = 0 then true else (s.chan ch).txIe }) := by
  by_cases hc : (s.chan ch).count.toNat = s.params.C
  · rw [xmit_full _ _ _ hc, Prod.mk.injEq] at h
    exact .inl ⟨hc, h.2.symm, h.1.symm.trans (raiseQueueOverflow_eq _ _)⟩
  · rw [xmit_room _ _ _ hc, Prod.mk.injEq] at h
    exact .inr ⟨hc, h.2.symm, h.1.symm⟩

/-- Everything a consumer invocation on a ready peripheral can do when it does not fault (42 R131). -/
theorem consume_cases {ch : Chan} {s t : State} {r : Response} (hf : (s.chan ch).txflag = true)
    (h : consume ch s = .ok (t, r)) :
    ((s.chan ch).count = 0 ∧ t = s.setChan ch { s.chan ch with txIe := false } ∧ r = .none) ∨
    (∃ v, (s.chan ch).count ≠ 0 ∧ (s.chan ch).head.toNat < s.params.C ∧
      cellAt s ch (s.chan ch).head.toNat = some v ∧ r = .some v ∧
      t = s.setChan ch { s.chan ch with
        head := BitVec.ofNat 8 (((s.chan ch).head.toNat + 1) % s.params.C),
        count := BitVec.ofNat 8 ((s.chan ch).count.toNat - 1),
        txlog := (s.chan ch).txlog ++ [v], txflag := false }) := by
  simp only [consume] at h
  cases hp : pop ch s with
  | error f => simp [hp] at h
  | ok q =>
    obtain ⟨u, o⟩ := q
    rcases pop_cases hp with ⟨hc, rfl, rfl⟩ | ⟨v, hc, hh, hv, rfl, rfl⟩
    · simp only [hp, disarm, Except.ok.injEq, Prod.mk.injEq] at h
      exact .inl ⟨hc, h.1.symm, h.2.symm⟩
    · simp only [hp, writeTx, chan_setChan_same, hf, if_true, setChan_setChan_same, Except.ok.injEq,
        Prod.mk.injEq] at h
      exact .inr ⟨v, hc, hh, hv, h.2.symm, h.1.symm⟩

theorem consume_empty (ch : Chan) (s : State) (h : (s.chan ch).count = 0) :
    consume ch s = .ok (s.setChan ch { s.chan ch with txIe := false }, .none) := by
  simp only [consume, pop_empty ch s h, disarm]

theorem consume_some (ch : Chan) (v : Byte) (s : State) (hf : (s.chan ch).txflag = true)
    (h : (s.chan ch).count ≠ 0) (hh : (s.chan ch).head.toNat < s.params.C)
    (hv : cellAt s ch (s.chan ch).head.toNat = some v) :
    consume ch s = .ok (s.setChan ch { s.chan ch with
        head := BitVec.ofNat 8 (((s.chan ch).head.toNat + 1) % s.params.C),
        count := BitVec.ofNat 8 ((s.chan ch).count.toNat - 1),
        txlog := (s.chan ch).txlog ++ [v], txflag := false }, .some v) := by
  simp only [consume, pop_some ch v s h hh hv, writeTx, chan_setChan_same, hf, if_true, setChan_setChan_same]

/-- A receive handler on a pending channel is the acknowledged read and the XMIT it feeds (43 R141). -/
theorem dispatch_pending (ch : Chan) (s : State) (h : (s.chan ch).rxflag = true) :
    dispatch ch s = .ok (xmit (s.params.route ch) (s.chan ch).rxbuf
      (s.setChan ch { s.chan ch with rxflag := false })) := by
  simp only [dispatch, readRx, h, if_true]

/-- A running machine executes. -/
theorem unlessHalted_running (s : State) (k : Host.Outcome State Fault Refusal) (h : s.halt = false) :
    unlessHalted s k = k := by
  simp [unlessHalted, h]

/-- A halted machine answers HALTED (60 R173). -/
theorem unlessHalted_halted (s : State) (k : Host.Outcome State Fault Refusal) (h : s.halt = true) :
    unlessHalted s k = .next (s.respond .halted) := by
  simp [unlessHalted, h, answer]

theorem andThen_next {o : Host.Outcome State Fault Refusal} {k : State → Host.Outcome State Fault Refusal}
    {t : State} (h : andThen o k = .next t) : ∃ s, o = .next s ∧ k s = .next t := by
  cases o with
  | next s => exact ⟨s, rfl, h⟩
  | fault f => cases h
  | refused r => cases h

theorem finish_next {r : Except Fault (State × Response)} {t : State} (h : finish r = .next t) :
    ∃ s a, r = .ok (s, a) ∧ t = s.respond a := by
  cases r with
  | error f => cases h
  | ok q =>
    obtain ⟨s, a⟩ := q
    simp only [finish, Host.Outcome.next.injEq] at h
    exact ⟨s, a, rfl, h.symm⟩

end Sys2Proof.Machine
end

