-- ==== Sys2Proof/Laws/Exec.lean ====
section
/-! SUPPORT. What each operation can do when it answers a next state, said once: a proof about an operation starts
from its lemma here instead of unfolding its meaning. -/

namespace Sys2Proof.Machine

theorem answer_next {s t : State} {r : Response} (h : answer s r = .next t) : t = s.respond r := by
  cases h
  rfl

/-- The halt test answers, or lets the operation run. -/
theorem unlessHalted_cases {s t : State} {k : Host.Outcome State Fault Refusal} (h : unlessHalted s k = .next t) :
    (s.halt = true ∧ t = s.respond .halted) ∨ (s.halt = false ∧ k = .next t) := by
  cases hh : s.halt
  · rw [unlessHalted_running _ _ hh] at h
    exact .inr ⟨rfl, h⟩
  · rw [unlessHalted_halted _ _ hh] at h
    cases h
    exact .inl ⟨rfl, rfl⟩

theorem exec_nop_cases {s t : State} (h : exec .nop s = .next t) :
    (s.halt = true ∧ t = s.respond .halted) ∨ (s.halt = false ∧ t = s.respond .done) :=
  (unlessHalted_cases h).imp_right fun ⟨a, hk⟩ => ⟨a, answer_next hk⟩

theorem exec_size_cases {c : Chan} {s t : State} (h : exec (.size c) s = .next t) :
    (s.halt = true ∧ t = s.respond .halted) ∨ (s.halt = false ∧ t = s.respond (.count (s.chan c).count)) :=
  (unlessHalted_cases h).imp_right fun ⟨a, hk⟩ => ⟨a, answer_next hk⟩

theorem exec_push_cases {c : Chan} {b : Byte} {s t : State} (h : exec (.push c b) s = .next t) :
    (s.halt = true ∧ t = s.respond .halted) ∨
    (s.halt = false ∧ (s.chan c).count.toNat = s.params.C ∧ t = s.respond .reject) ∨
    (s.halt = false ∧ (s.chan c).count.toNat ≠ s.params.C ∧ t = (s.setChan c { s.chan c with
      storage := Storage.write (s.chan c).storage (s.tail c) b,
      count := BitVec.ofNat 8 ((s.chan c).count.toNat + 1) }).respond .accept) := by
  rcases unlessHalted_cases h with h' | ⟨a, hk⟩
  · exact .inl h'
  · by_cases hc : (s.chan c).count.toNat = s.params.C
    · rw [push_full _ _ _ hc] at hk
      exact .inr (.inl ⟨a, hc, answer_next hk⟩)
    · rw [push_room _ _ _ hc] at hk
      exact .inr (.inr ⟨a, hc, answer_next hk⟩)

theorem exec_pop_cases {c : Chan} {s t : State} (h : exec (.pop c) s = .next t) :
    (s.halt = true ∧ t = s.respond .halted) ∨
    (s.halt = false ∧ (s.chan c).count = 0 ∧ t = s.respond .none) ∨
    (∃ v, s.halt = false ∧ (s.chan c).count ≠ 0 ∧ (s.chan c).head.toNat < s.params.C ∧
      cellAt s c (s.chan c).head.toNat = some v ∧ t = (s.setChan c { s.chan c with
        head := BitVec.ofNat 8 (((s.chan c).head.toNat + 1) % s.params.C),
        count := BitVec.ofNat 8 ((s.chan c).count.toNat - 1) }).respond (.some v)) := by
  rcases unlessHalted_cases h with h' | ⟨a, hk⟩
  · exact .inl h'
  · right
    cases hp : pop c s with
    | error f =>
      rw [hp] at hk
      cases hk
    | ok q =>
      obtain ⟨u, o⟩ := q
      rw [hp] at hk
      rcases pop_cases hp with ⟨h1, rfl, rfl⟩ | ⟨v, h1, h2, h3, rfl, rfl⟩
      · exact .inl ⟨a, h1, answer_next hk⟩
      · exact .inr ⟨v, a, h1, h2, h3, answer_next hk⟩

/-- With `xmit_cases`, everything XMIT can do. -/
theorem exec_xmit_cases {c : Chan} {b : Byte} {s t : State} (h : exec (.xmit c b) s = .next t) :
    (s.halt = true ∧ t = s.respond .halted) ∨
    (s.halt = false ∧ ∃ u r, xmit c b s = (u, r) ∧ t = u.respond r) := by
  rcases unlessHalted_cases h with h' | ⟨a, hk⟩
  · exact .inl h'
  · cases hk
    exact .inr ⟨a, _, _, rfl, rfl⟩

/-- With `consume_cases`, everything TXC can do. -/
theorem exec_txc_cases {c : Chan} {s t : State} (h : exec (.txc c) s = .next t) :
    (s.halt = true ∧ t = s.respond .halted) ∨
    (s.halt = false ∧ txRequest s c = false ∧ t = s.respond .notReady) ∨
    (s.halt = false ∧ (s.chan c).txIe = true ∧ (s.chan c).txflag = true ∧
      ∃ u r, consume c s = .ok (u, r) ∧ t = u.respond r) := by
  rcases unlessHalted_cases h with h' | ⟨a, hk⟩
  · exact .inl h'
  · right
    split at hk
    · rename_i hr
      simp only [txRequest, globalEnable, Bool.and_eq_true] at hr
      obtain ⟨u, r, h1, h2⟩ := finish_next hk
      exact .inr ⟨a, hr.1.2, hr.2, u, r, h1, h2⟩
    · rename_i hr
      exact .inl ⟨a, by simpa using hr, answer_next hk⟩

/-- With `consume_cases`, everything TXVEC can do to one channel. -/
theorem consumeIfFlagged_cases {c : Chan} {s t : State} (h : consumeIfFlagged c s = .ok t) :
    ((s.chan c).txflag = false ∧ t = s) ∨ ((s.chan c).txflag = true ∧ ∃ r, consume c s = .ok (t, r)) := by
  unfold consumeIfFlagged at h
  split at h
  · rename_i hf
    split at h
    · rename_i hc
      cases h
      exact .inr ⟨hf, _, hc⟩
    · cases h
  · rename_i hf
    cases h
    exact .inl ⟨by simpa using hf, rfl⟩

theorem exec_txvec_cases {s t : State} (h : exec .txvec s = .next t) :
    (s.halt = true ∧ t = s.respond .halted) ∨
    (s.halt = false ∧ irqTx s = false ∧ t = s.respond .notReady) ∨
    (s.halt = false ∧ irqTx s = true ∧ ∃ u v, consumeIfFlagged .c0 s = .ok u ∧
      consumeIfFlagged .c1 u = .ok v ∧ t = v.respond .done) := by
  rcases unlessHalted_cases h with h' | ⟨a, hk⟩
  · exact .inl h'
  · right
    split at hk
    · rename_i hr
      obtain ⟨u, r, h1, h2⟩ := finish_next hk
      unfold serveTransmitters at h1
      split at h1
      · cases h1
      · rename_i u' hu'
        split at h1
        · cases h1
        · rename_i v hv
          cases h1
          exact .inr ⟨a, hr, _, _, hu', hv, h2⟩
    · rename_i hr
      exact .inl ⟨a, by simpa using hr, answer_next hk⟩

/-- With `xmit_cases`, everything RXD can do. -/
theorem exec_rxd_cases {c : Chan} {s t : State} (h : exec (.rxd c) s = .next t) :
    (s.halt = true ∧ t = s.respond .halted) ∨
    (s.halt = false ∧ (s.chan c).rxflag = false ∧ t = s.respond .notReady) ∨
    (s.halt = false ∧ (s.chan c).rxflag = true ∧ ∃ u r,
      xmit (s.params.route c) (s.chan c).rxbuf (s.setChan c { s.chan c with rxflag := false }) = (u, r) ∧
      t = u.respond r) := by
  rcases unlessHalted_cases h with h' | ⟨a, hk⟩
  · exact .inl h'
  · right
    simp only [rxRequest, globalEnable, a, Bool.not_false, Bool.true_and] at hk
    cases hf : (s.chan c).rxflag
    · simp only [hf, Bool.false_eq_true, if_false] at hk
      exact .inl ⟨a, rfl, answer_next hk⟩
    · simp only [hf, if_true, dispatch_pending c s hf] at hk
      cases hk
      exact .inr ⟨a, rfl, _, _, rfl, rfl⟩

/-- With `xmit_cases`, everything RXVEC can do for one channel. -/
theorem dispatchIfPending_cases {c : Chan} {s t : State} {q r : Response}
    (h : dispatchIfPending c s q = .ok (t, r)) :
    (rxRequest s c = false ∧ t = s ∧ r = q) ∨
    (s.halt = false ∧ (s.chan c).rxflag = true ∧ ∃ a,
      xmit (s.params.route c) (s.chan c).rxbuf (s.setChan c { s.chan c with rxflag := false }) = (t, a) ∧
      r = if a = .overflow then .overflow else q) := by
  unfold dispatchIfPending at h
  split at h
  · rename_i hr
    simp only [rxRequest, globalEnable, Bool.and_eq_true, Bool.not_eq_true'] at hr
    rw [dispatch_pending c s hr.2] at h
    cases h
    exact .inr ⟨hr.1, hr.2, _, rfl, rfl⟩
  · rename_i hr
    cases h
    exact .inl ⟨by simpa using hr, rfl, rfl⟩

theorem exec_rxvec_cases {s t : State} (h : exec .rxvec s = .next t) :
    (s.halt = true ∧ t = s.respond .halted) ∨
    (s.halt = false ∧ irqRx s = false ∧ t = s.respond .notReady) ∨
    (s.halt = false ∧ irqRx s = true ∧ ∃ u r v a, dispatchIfPending .c0 s .done = .ok (u, r) ∧
      dispatchIfPending .c1 u r = .ok (v, a) ∧ t = v.respond a) := by
  rcases unlessHalted_cases h with h' | ⟨a, hk⟩
  · exact .inl h'
  · right
    split at hk
    · rename_i hr
      obtain ⟨u, r, h1, h2⟩ := finish_next hk
      unfold serveReceivers at h1
      split at h1
      · cases h1
      · rename_i u' r' hu'
        exact .inr ⟨a, hr, _, _, _, _, hu', h1, h2⟩
    · rename_i hr
      exact .inl ⟨a, by simpa using hr, answer_next hk⟩

theorem exec_txdone_next {c : Chan} {s t : State} (h : exec (.txdone c) s = .next t) :
    t = (s.setChan c { s.chan c with txflag := true }).respond .done := answer_next h

theorem exec_rxarr_cases {c : Chan} {b : Byte} {s t : State} (h : exec (.rxarr c b) s = .next t) :
    ((s.chan c).rxflag = false ∧ t = (s.setChan c { s.chan c with rxbuf := b, rxflag := true }).respond .done) ∨
    ((s.chan c).rxflag = true ∧ ∃ kept n, (kept = (s.chan c).rxbuf ∨ kept = b) ∧
      t = ((s.setChan c { s.chan c with rxbuf := kept }).setFree n).respond .done) := by
  simp only [exec, execRxarr] at h
  split at h
  · rename_i hf
    exact .inr ⟨hf, _, _, by split <;> simp, answer_next h⟩
  · rename_i hf
    exact .inl ⟨by simpa using hf, answer_next h⟩

theorem exec_reset_next {s t : State} (h : exec .reset s = .next t) :
    t = ((((s.setChan .c0 (resetChannel s.free)).setChan .c1 (resetChannel (s.free + 1))).setHalt false).setFree
      (s.free + 2)).respond .done := answer_next h

end Sys2Proof.Machine
end

