-- ==== Sys2Proof/Laws/PerInstr.lean ====
section
/-! SUPPORT. What is said of every operation as syntax: it is well-formed, and its written form reads back as it
(30_encoding R75, R86). -/

namespace Sys2Proof.Laws

theorem chan_ofNat_num (c : Chan) : Chan.ofNat? c.num = some c := by cases c <;> rfl

theorem chan_num_le (c : Chan) : c.num ≤ 1 := by cases c <;> decide

theorem byte_ofNat_toNat (b : Byte) : Byte.ofNat? b.toNat = some b := by
  simp [Byte.ofNat?, b.isLt]

/-- The operation's written form passes the checks and stands for it. -/
def RawForm.Statement (i : Instr) : Prop := i.wf = true ∧ i.toRaw.toInstr? = some i

theorem RawForm.nop : RawForm.Statement .nop := ⟨rfl, rfl⟩

theorem RawForm.push (ch : Chan) (b : Byte) : RawForm.Statement (.push ch b) := by
  simp [RawForm.Statement, Instr.wf, Instr.toRaw, RawInstr.wf, Mnemonic.format, RawInstr.toInstr?,
    chan_ofNat_num, byte_ofNat_toNat, chan_num_le, b.isLt]

theorem RawForm.pop (ch : Chan) : RawForm.Statement (.pop ch) := by cases ch <;> exact ⟨rfl, rfl⟩

theorem RawForm.size (ch : Chan) : RawForm.Statement (.size ch) := by cases ch <;> exact ⟨rfl, rfl⟩

theorem RawForm.xmit (ch : Chan) (b : Byte) : RawForm.Statement (.xmit ch b) := by
  simp [RawForm.Statement, Instr.wf, Instr.toRaw, RawInstr.wf, Mnemonic.format, RawInstr.toInstr?,
    chan_ofNat_num, byte_ofNat_toNat, chan_num_le, b.isLt]

theorem RawForm.txc (ch : Chan) : RawForm.Statement (.txc ch) := by cases ch <;> exact ⟨rfl, rfl⟩

theorem RawForm.rxd (ch : Chan) : RawForm.Statement (.rxd ch) := by cases ch <;> exact ⟨rfl, rfl⟩

theorem RawForm.txvec : RawForm.Statement .txvec := ⟨rfl, rfl⟩

theorem RawForm.rxvec : RawForm.Statement .rxvec := ⟨rfl, rfl⟩

theorem RawForm.txdone (ch : Chan) : RawForm.Statement (.txdone ch) := by cases ch <;> exact ⟨rfl, rfl⟩

theorem RawForm.rxarr (ch : Chan) (b : Byte) : RawForm.Statement (.rxarr ch b) := by
  simp [RawForm.Statement, Instr.wf, Instr.toRaw, RawInstr.wf, Mnemonic.format, RawInstr.toInstr?,
    chan_ofNat_num, byte_ofNat_toNat, chan_num_le, b.isLt]

theorem RawForm.reset : RawForm.Statement .reset := ⟨rfl, rfl⟩

end Sys2Proof.Laws
end

