-- ==== Sys2Proof/Laws/Port.lean ====
section
/-! SUPPORT. What the arbiter, the early completion check and a clock edge can do, said once. -/

namespace Sys2Proof.Machine

/-- The arbiter chooses an enabled handler or the presented word (30_encoding R84). -/
theorem arbitrate_cases {e : Edge} {s : State} {g : Grant} (h : arbitrate e s = some g) :
    (∃ i ∈ enabledHandlers s, g = .handler i) ∨ (∃ w, presentedWord e s = some w ∧ g = .host w) := by
  have hm : g ∈ grants s (presentedWord e s) := List.mem_iff_getElem?.2 ⟨_, h⟩
  simp only [grants, List.mem_append, List.mem_map, Option.mem_toList, Option.map_eq_some_iff] at hm
  rcases hm with ⟨i, hi, rfl⟩ | ⟨w, hw, rfl⟩
  · exact .inl ⟨i, hi, rfl⟩
  · exact .inr ⟨w, hw, rfl⟩

/-- The arbiter leaves an edge without an operation only when nothing is possible (60_exceptions R168). -/
theorem arbitrate_none {e : Edge} {s : State} (h : arbitrate e s = none) :
    enabledHandlers s = [] ∧ presentedWord e s = none := by
  have hl : grants s (presentedWord e s) = [] := by
    by_contra hne
    have hlt := Nat.mod_lt e.grant (List.length_pos_of_ne_nil hne)
    exact absurd (List.getElem?_eq_none_iff.1 h) (Nat.not_le_of_lt hlt)
  simpa [grants] using hl

/-- An early completion is a pulse on a channel whose transmit register was written (30_encoding R85). -/
theorem earlyCompletion_some {e : Edge} {s t : State} {ch : Chan} (h : earlyCompletion e s t = some ch) :
    e.txDone ch = true ∧ txWritten s t ch ≠ [] := by
  unfold earlyCompletion at h
  split at h
  · cases h
    simp_all
  · split at h
    · cases h
      simp_all
    · cases h

/-- Everything an edge that completes can do (30_encoding R84, R85, 70 R190). -/
theorem clockEdge_cases {e : Edge} {s t : State} (h : clockEdge e s = .next t) :
    (e.rst = true ∧ ∃ u, exec .reset s = .next u ∧ t = u.setPort (presentedWord e s) none) ∨
    (e.rst = false ∧ resetGranted e s = true ∧ edgeOperation e s = .next t) ∨
    (e.rst = false ∧ resetGranted e s = false ∧ ∃ u, edgeOperation e s = .next u ∧
      earlyCompletion e s u = none ∧ execAll e.events u = .next t) := by
  unfold clockEdge at h
  split at h
  · rename_i hr
    obtain ⟨u, hu, ht⟩ := andThen_next h
    cases ht
    exact .inl ⟨hr, u, hu, rfl⟩
  · rename_i hr
    split at h
    · rename_i hg
      exact .inr (.inl ⟨by simpa using hr, hg, h⟩)
    · rename_i hg
      obtain ⟨u, hu, ht⟩ := andThen_next h
      cases hc : earlyCompletion e s u with
      | none =>
        rw [hc] at ht
        exact .inr (.inr ⟨by simpa using hr, by simpa using hg, u, hu, hc, ht⟩)
      | some ch =>
        rw [hc] at ht
        cases ht

end Sys2Proof.Machine
end

