-- ==== Sys2Proof/Machine/Assembler.lean ====
section
/-! DEFINITION. The textual form of the operations and the pseudo-operations (30_encoding R86, R87). No operation
depends on this file: it is how traces are written down. -/

namespace Sys2Proof.Machine

/-- The capitals of a mnemonic (30_encoding R86). -/
def mnemonicText : Mnemonic → List Char
  | .NOP => ['N', 'O', 'P']
  | .PUSH => ['P', 'U', 'S', 'H']
  | .POP => ['P', 'O', 'P']
  | .SIZE => ['S', 'I', 'Z', 'E']
  | .XMIT => ['X', 'M', 'I', 'T']
  | .TXC => ['T', 'X', 'C']
  | .RXD => ['R', 'X', 'D']
  | .TXVEC => ['T', 'X', 'V', 'E', 'C']
  | .RXVEC => ['R', 'X', 'V', 'E', 'C']
  | .TXDONE => ['T', 'X', 'D', 'O', 'N', 'E']
  | .RXARR => ['R', 'X', 'A', 'R', 'R']
  | .RESET => ['R', 'E', 'S', 'E', 'T']

/-- The pieces of a line. -/
inductive Token
  /-- a mnemonic or a number -/
  | name (cs : List Char)
  /-- a character in single quotes -/
  | chr (c : Char)
  /-- a string in double quotes -/
  | str (cs : List Char)
  | comma
deriving DecidableEq, Repr

/-- A finished name, if any characters were collected. -/
def flushName (acc : List Char) : List Token := if acc.isEmpty then [] else [.name acc.reverse]

/-- The pieces of a line; `;` starts a comment outside quotes. `acc` holds the name being read, `quoted` the string
being read. An unclosed string is no line. -/
def tokens (cs acc : List Char) (quoted : Option (List Char)) : Option (List Token) :=
  match cs, quoted with
  | [], none => some (flushName acc)
  | [], some _ => none
  | '"' :: rest, some q => (tokens rest [] none).map (fun ts => .str q.reverse :: ts)
  | c :: rest, some q => tokens rest [] (some (c :: q))
  | ';' :: _, none => some (flushName acc)
  | '\'' :: c :: '\'' :: rest, none => (tokens rest [] none).map (fun ts => flushName acc ++ .chr c :: ts)
  | '"' :: rest, none => (tokens rest [] (some [])).map (fun ts => flushName acc ++ ts)
  | ',' :: rest, none => (tokens rest [] none).map (fun ts => flushName acc ++ .comma :: ts)
  | ' ' :: rest, none => (tokens rest [] none).map (fun ts => flushName acc ++ ts)
  | c :: rest, none => tokens rest (c :: acc) none

/-- The value of a digit in the given base. -/
def digit (base : Nat) (c : Char) : Option Nat :=
  let n := c.toNat
  let v := if 48 ≤ n ∧ n ≤ 57 then n - 48
    else if 65 ≤ n ∧ n ≤ 70 then n - 55
    else if 97 ≤ n ∧ n ≤ 102 then n - 87
    else base
  if v < base then some v else none

/-- Digits, most significant first. -/
def digits (base : Nat) (cs : List Char) (acc : Nat) : Option Nat :=
  match cs with
  | [] => some acc
  | c :: rest =>
    match digit base c with
    | some v => digits base rest (acc * base + v)
    | none => none

/-- A decimal number, or a hexadecimal one behind `0x`. -/
def number (cs : List Char) : Option Nat :=
  match cs with
  | [] => none
  | ['0', 'x'] => none
  | '0' :: 'x' :: rest => digits 16 rest 0
  | _ => digits 10 cs 0

/-- The ASCII code of a printable character (00_scope R9, G2). -/
def asciiCode (c : Char) : Option Nat := if 32 ≤ c.toNat ∧ c.toNat ≤ 126 then some c.toNat else none

/-- An operand: a number, or a character in single quotes. -/
def operand : Token → Option Nat
  | .name cs => number cs
  | .chr c => asciiCode c
  | _ => none

/-- A channel operand, a number only. -/
def channelOperand : Token → Option Nat
  | .name ['0'] => some 0
  | .name ['1'] => some 1
  | _ => none

/-- A line of a trace or a program (30_encoding R86, R87). -/
inductive SourceLine
  | blank
  | op (i : Instr)
  /-- SERVE: TXDONE then TXC -/
  | serve (ch : Chan)
  /-- RECV: RXARR then RXD -/
  | recv (ch : Chan) (b : Byte)
  /-- XMITS: one XMIT for each character -/
  | xmits (ch : Chan) (bs : List Byte)
  /-- DRAIN: SERVE until a TXC answers NONE -/
  | drain (ch : Chan)
deriving DecidableEq, Repr

/-- The channel and the byte of a pseudo-operation. -/
def chanOperand? (t : Token) : Option Chan := do Chan.ofNat? (← channelOperand t)

/-- A data operand as a byte. -/
def byteOperand? (t : Token) : Option Byte := do Byte.ofNat? (← operand t)

/-- The codes of a string's characters. -/
def stringBytes? (cs : List Char) : Option (List Byte) :=
  match cs with
  | [] => some []
  | c :: rest => do return (← Byte.ofNat? (← asciiCode c)) :: (← stringBytes? rest)

/-- The operands that follow a mnemonic, as the raw form holds them. -/
def rawOperands? (m : Mnemonic) (ops : List Token) : Option RawInstr :=
  match ops with
  | [] => some { name := m, ch := none, data := none }
  | [c] => do return { name := m, ch := some (← channelOperand c), data := none }
  | [c, .comma, d] => do return { name := m, ch := some (← channelOperand c), data := some (← operand d) }
  | _ => none

/-- The operation behind a mnemonic of the opcode map, with the operands that follow it. -/
def operationLine? (cs : List Char) (ops : List Token) : Option SourceLine := do
  let m ← mnemonics.find? (fun m => mnemonicText m == cs)
  let raw ← rawOperands? m ops
  return .op (← raw.toInstr?)

/-- The line made of these pieces. -/
def sourceLine? (ts : List Token) : Option SourceLine :=
  match ts with
  | [] => some .blank
  | [.name ['S', 'E', 'R', 'V', 'E'], c] => do return .serve (← chanOperand? c)
  | [.name ['D', 'R', 'A', 'I', 'N'], c] => do return .drain (← chanOperand? c)
  | [.name ['R', 'E', 'C', 'V'], c, .comma, d] => do return .recv (← chanOperand? c) (← byteOperand? d)
  | [.name ['X', 'M', 'I', 'T', 'S'], c, .comma, .str cs] =>
    do return .xmits (← chanOperand? c) (← stringBytes? cs)
  | .name cs :: ops => operationLine? cs ops
  | _ => none

/-- The line a text stands for (30_encoding R86). -/
def parseLine? (cs : List Char) : Option SourceLine := do sourceLine? (← tokens cs [] none)

/-- SERVE (30_encoding R87). -/
def serveOps (ch : Chan) : List Instr := [.txdone ch, .txc ch]

/-- SERVE `n` times. -/
def serveTimes (ch : Chan) : Nat → List Instr
  | 0 => []
  | n + 1 => serveOps ch ++ serveTimes ch n

/-- The operations a line expands to in a state (30_encoding R87). DRAIN is SERVE repeated until a TXC answers NONE: on
an armed channel of a machine that runs, that is one SERVE for each queued byte and one more (42 R137; log 21). -/
def SourceLine.expand (s : State) : SourceLine → List Instr
  | .blank => []
  | .op i => [i]
  | .serve ch => serveOps ch
  | .recv ch b => [.rxarr ch b, .rxd ch]
  | .xmits ch bs => bs.map (Instr.xmit ch)
  | .drain ch => serveTimes ch ((s.chan ch).count.toNat + 1)

end Sys2Proof.Machine
end

