-- ==== Sys2Proof/Tests/Slice0.lean ====
section
/-! SUPPORT. Tests of the model against the vectors of 95_test_vectors (each cited by its identifier), and for each
statement with hypotheses a state and operands that meet them. -/

namespace Sys2Proof.Tests

open Sys2Proof Sys2Proof.Machine

/-! ## Well-formedness -/

/-- 30 R86: a well-formed written operation is accepted. -/
theorem test_raw_accepted : (RawInstr.mk .PUSH (some 1) (some 255)).wf = true := by decide

/-- 30 R75: a channel operand is 0 or 1. -/
theorem test_raw_channel_2_refused : (RawInstr.mk .POP (some 2) none).wf = false := by decide

/-- 30 R75: a data operand is at most 255. -/
theorem test_raw_data_256_refused : (RawInstr.mk .XMIT (some 0) (some 256)).wf = false := by decide

/-- 30 R74: format CD needs its data operand. -/
theorem test_raw_missing_data_refused : (RawInstr.mk .RXARR (some 0) none).wf = false := by decide

/-- 30 R73: format C takes no data operand. -/
theorem test_raw_extra_data_refused : (RawInstr.mk .TXC (some 0) (some 1)).wf = false := by decide

/-- 30 R73: format C needs its channel operand. -/
theorem test_raw_missing_channel_refused : (RawInstr.mk .SIZE none none).wf = false := by decide

/-- 30 R72: format Z takes no operand. -/
theorem test_raw_extra_channel_refused : (RawInstr.mk .TXVEC (some 0) none).wf = false := by decide

/-- 00 R8: no configuration of capacity 0 or 256 exists, and the boundary capacities do. -/
theorem test_build_contract :
    (RawParams.mk 0 .failstop .c0 .c1 true).wf = false ∧ (RawParams.mk 256 .report .c0 .c1 true).wf = false ∧
    (RawParams.mk 1 .failstop .c0 .c1 true).wf = true ∧ (RawParams.mk 255 .report .c1 .c0 false).wf = true ∧
    (RawParams.mk 256 .report .c0 .c1 true).build? = none := by decide

/-! ## Decoding -/

/-- V30-1. -/
theorem test_decode_nop : decode 0b0000000000000000#16 = .op .nop := by decide

/-- V30-2. -/
theorem test_decode_push : decode 0b0001000000000000#16 = .op (.push .c0 0x00) := by decide

/-- V30-3. -/
theorem test_decode_push_high : decode 0b0001000111111111#16 = .op (.push .c1 0xFF) := by decide

/-- V30-4. -/
theorem test_decode_pop : decode 0b0010000100000000#16 = .op (.pop .c1) := by decide

/-- V30-5. -/
theorem test_decode_size : decode 0b0011000000000000#16 = .op (.size .c0) := by decide

/-- V30-6. -/
theorem test_decode_xmit : decode 0b0100000101100001#16 = .op (.xmit .c1 0x61) := by decide

/-- V30-7. -/
theorem test_decode_txc : decode 0b0101000100000000#16 = .op (.txc .c1) := by decide

/-- V30-8. -/
theorem test_decode_rxd : decode 0b0110000000000000#16 = .op (.rxd .c0) := by decide

/-- V30-9. -/
theorem test_decode_txvec : decode 0b0111000000000000#16 = .op .txvec := by decide

/-- V30-10. -/
theorem test_decode_rxvec : decode 0b1000000000000000#16 = .op .rxvec := by decide

/-- V30-11. -/
theorem test_decode_txdone : decode 0b1001000100000000#16 = .op (.txdone .c1) := by decide

/-- V30-12. -/
theorem test_decode_rxarr : decode 0b1010000101111110#16 = .op (.rxarr .c1 0x7E) := by decide

/-- V30-13. -/
theorem test_decode_reset : decode 0b1111000000000000#16 = .op .reset := by decide

/-- V30-14: reserved operation codes. -/
theorem test_illegal_opcode :
    [(0xB000 : Word), 0xC123, 0xD000, 0xE0FF].map decode =
      List.replicate 4 (.illegal .reservedOpcode) := by decide

/-- V30-15: a reserved bit set. -/
theorem test_illegal_reserved :
    [(0x1200 : Word), 0x4461, 0x5801].map decode = List.replicate 3 (.illegal .reservedBits) := by decide

/-- V30-16, V30-18: data in a format C or Z word. -/
theorem test_illegal_data :
    [(0x2001 : Word), 0x3180, 0x9001, 0x8001, 0x0001, 0xF001].map decode =
      List.replicate 6 (.illegal .strayData) := by decide

/-- V30-17: channel bit in a format Z word. -/
theorem test_illegal_channel :
    [(0x7100 : Word), 0x0100, 0xF100].map decode = List.replicate 3 (.illegal .strayChannel) := by decide

/-- 30 R88: the encoder's words of V30-3, V30-12 and V30-13. -/
theorem test_encode : encode (.push .c1 0xFF) = 0x11FF ∧ encode (.rxarr .c1 0x7E) = 0xA17E ∧
    encode .reset = 0xF000 := by decide

/-- 30 R86, R87: lines of a trace. -/
theorem test_parse :
    parseLine? "XMIT 0, 'a' ; first".toList = some (.op (.xmit .c0 0x61)) ∧
    parseLine? "RXARR 1, 0x7E".toList = some (.op (.rxarr .c1 0x7E)) ∧
    parseLine? "XMITS 0, \"abc\"".toList = some (.xmits .c0 [0x61, 0x62, 0x63]) ∧
    parseLine? "DRAIN 0".toList = some (.drain .c0) ∧ parseLine? "PUSH 2, 1".toList = none := by decide

/-! ## Small states -/

/-- A configuration with capacity `last + 1`. -/
def cfg (last : Fin 255) (m : OvfMode) (r0 r1 : Chan) : Params :=
  { lastIndex := last, ovfMode := m, route0 := r0, route1 := r1, sharedVec := true }

/-- A channel with a queue, its enable bit and its completion flag. -/
def queued (m : Storage) (head count : QReg) (ie flag : Bool) (sent : List Byte) : Channel :=
  { Channel.resetWith 0 with storage := m, head := head, count := count, txIe := ie, txflag := flag, txlog := sent }

/-- A channel with a received byte pending. -/
def pending (b : Byte) (c : Channel) : Channel := { c with rxflag := true, rxbuf := b }

/-- The idle channel. -/
def idleCh : Channel := Channel.resetWith 0

/-- A running machine with these channels. -/
def mach (p : Params) (c0 c1 : Channel) : State := { State.resetOf p with ch0 := c0, ch1 := c1 }

/-- `C` = 4, fail-stop, echo. -/
def p4 : Params := cfg 3 .failstop .c0 .c1

/-- `C` = 1, fail-stop, both routed to channel 0. -/
def p1 : Params := cfg 0 .failstop .c0 .c0

/-- `C` = 1, report, relay. -/
def q1 : Params := cfg 0 .report .c1 .c0

/-- The response word an outcome shows. -/
def rspWord (o : Host.Outcome State Fault Refusal) : Option Word :=
  match o with
  | .next t => t.rsp.map Response.word
  | _ => none

/-- A property of the next state. -/
def after (o : Host.Outcome State Fault Refusal) (p : State → Bool) : Bool :=
  match o with
  | .next t => p t
  | _ => false

/-! ## One step of each operation -/

/-- V44-6. -/
theorem test_nop : rspWord (step ((mach p4 idleCh idleCh).withFetchWord 16 0x0000)) = some 0x0000 := by decide

/-- V44-7. -/
theorem test_nop_halted : rspWord (runWord 0x0000 ((mach p4 idleCh idleCh).setHalt true)) = some 0x8000 := by decide

/-- V40-3: the insert position wraps. -/
theorem test_push_wraps :
    after (runWord 0x105A (mach p4 (queued [(0, 0x40), (3, 0x30)] 3 2 false true []) idleCh)) (fun t =>
      t.rsp == some .accept && t.ch0 == queued [(0, 0x40), (1, 0x5A), (3, 0x30)] 3 3 false true []) = true := by decide

/-- V40-4: the sum is not truncated to 8 bits. -/
theorem test_push_index_not_truncated :
    after (runWord 0x1001 (mach (cfg 199 .failstop .c0 .c1) (queued [] 199 199 false true []) idleCh)) (fun t =>
      t.rsp == some .accept && t.ch0 == queued [(198, 0x01)] 199 200 false true []) = true := by decide

/-- V40-9: `head` wraps and the cell keeps its byte. -/
theorem test_pop_wraps :
    after (runWord 0x2000 (mach p4 (queued [(3, 0x64)] 3 1 false true []) idleCh)) (fun t =>
      t.rsp.map Response.word == some 0x3064 && t.ch0 == queued [(3, 0x64)] 0 0 false true []) = true := by decide

/-- V40-8. -/
theorem test_pop_empty : rspWord (runWord 0x2100 (mach p4 idleCh idleCh)) = some 0x4000 := by decide

/-- V40-16. -/
theorem test_size_largest :
    rspWord (runWord 0x3000 (mach (cfg 254 .failstop .c0 .c1) (queued [] 0 255 false true []) idleCh)) =
      some 0x50FF := by decide

/-- The full channel of V41-3 and V41-4. -/
def fullCh : Channel := queued [(0, 0x65), (1, 0x62), (2, 0x63), (3, 0x64)] 1 4 true true [0x61]

/-- V41-4: fail-stop overflow, and both status bytes. -/
theorem test_xmit_overflow :
    after (runWord 0x4066 (mach p4 { fullCh with txflag := false } idleCh)) (fun t =>
      t.rsp.map Response.word == some 0x6000 && status t .c0 == 0xA6 && status t .c1 == 0x89) = true := by decide

/-- V41-5: an accepted byte on a Draining channel. -/
theorem test_xmit_draining :
    after (runWord 0x4042 (mach p4 (queued [(0, 0x41)] 1 0 true false [0x41]) idleCh)) (fun t =>
      t.ch0 == queued [(0, 0x41), (1, 0x42)] 1 1 true false [0x41]) = true := by decide

/-- V42-1. -/
theorem test_txc :
    after (runWord 0x5000 (mach p4 (queued [(0, 0x61), (1, 0x62), (2, 0x63)] 0 3 true true []) idleCh)) (fun t =>
      t.rsp.map Response.word == some 0x3061 &&
      t.ch0 == queued [(0, 0x61), (1, 0x62), (2, 0x63)] 1 2 true false [0x61]) = true := by decide

/-- V42-4, its last operation. -/
theorem test_txc_disarms :
    after (runWord 0x5000 (mach p4 (queued [(0, 0x41)] 1 0 true true [0x41]) idleCh)) (fun t =>
      t.rsp.map Response.word == some 0x4000 && status t .c0 == 0x09) = true := by decide

/-- V42-9: the shared handler serves a stranded channel on its flag alone. -/
theorem test_txvec_stranded :
    after (runWord 0x7000 (mach p4 (queued [(0, 0x55)] 0 1 false true []) (queued [(0, 0x01)] 0 1 true true [])))
      (fun t => t.ch0 == queued [(0, 0x55)] 1 0 false false [0x55] &&
        t.ch1 == queued [(0, 0x01)] 1 0 true false [0x01]) = true := by decide

/-- V42-8. -/
theorem test_txvec_not_ready : rspWord (runWord 0x7000 (mach p4 idleCh idleCh)) = some 0x9000 := by decide

/-- V43-1, its second operation: relay. -/
theorem test_rxd_relays :
    after (runWord 0x6000 (mach (cfg 3 .failstop .c1 .c0) (pending 0x41 idleCh) idleCh)) (fun t =>
      t.rsp == some .accept && t.ch0 == { idleCh with rxbuf := 0x41 } &&
      t.ch1 == queued [(0, 0x41)] 0 1 true true []) = true := by decide

/-- V43-5, its last operation: the received byte is lost. -/
theorem test_rxd_overflow :
    after (runWord 0x6000 (mach (cfg 1 .failstop .c1 .c1) (pending 0x03 idleCh)
        (queued [(0, 0x01), (1, 0x02)] 0 2 true true []))) (fun t =>
      t.rsp == some .overflow && status t .c0 == 0x89 && status t .c1 == 0xAE) = true := by decide

/-- V43-7: the handler stops when it halts. -/
theorem test_rxvec_halts :
    after (runWord 0x8000 (mach p1 (pending 0x02 (queued [(0, 0x01)] 0 1 true true [])) (pending 0x03 idleCh)))
      (fun t => t.rsp == some .overflow && !t.ch0.rxflag && t.ch1.rxflag && t.ch0.ovf && t.halt) = true := by decide

/-- V43-9: the first byte fits, the second does not. -/
theorem test_rxvec_second_overflows :
    after (runWord 0x8000 (mach (cfg 1 .report .c0 .c0) (pending 0x02 (queued [(0, 0x01)] 0 1 true true []))
        (pending 0x03 idleCh))) (fun t =>
      t.rsp == some .overflow && t.ch0.storage == [(0, 0x01), (1, 0x02)] && t.ch0.ovf && !t.ch1.rxflag &&
      !t.halt) = true := by decide

/-- V44-3. -/
theorem test_txdone_halted :
    after (runWord 0x9000 ((mach p4 (queued [] 0 0 true false [0x41]) idleCh).setHalt true)) (fun t =>
      t.rsp == some .done && t.ch0.txflag) = true := by decide

/-- V44-4. -/
theorem test_rxarr :
    after (runWord 0xA17E (mach p4 idleCh idleCh)) (fun t =>
      t.rsp == some .done && t.ch1 == pending 0x7E idleCh) = true := by decide

/-- V60-2, V70-1: RESET of a halted machine. -/
theorem test_reset :
    after (runWord 0xF000 ((mach p4 { fullCh with ovf := true } idleCh).setHalt true)) (fun t =>
      t.rsp == some .done && status t .c0 == 0x09 && status t .c1 == 0x09) = true := by decide

/-- V60-1: the check of the word comes before the halt test. -/
theorem test_illegal_halted : rspWord (runWord 0xB000 ((mach p4 idleCh idleCh).setHalt true)) = some 0x7000 := by
  decide

/-- 30 R83: TXC is not a word the command port takes. -/
theorem test_port_refuses_txc : rspWord (runPortWord 0x5000 (mach p4 fullCh idleCh)) = some 0x7000 := by decide

/-- 30 R84: the word that loses arbitration to TXVEC stays presented. -/
theorem test_edge_handler_first :
    after (clockEdge { Edge.quiet 0 with cmd := some 0x4041 } (mach p4 fullCh idleCh)) (fun t =>
      t.cmdHeld == some 0x4041 && t.rsp == some .done && t.portRsp == none && t.ch0.count == 3) = true := by decide

/-- 60 R168: exactly one operation executes at an edge with a request, whatever the grant. -/
theorem test_edge_serves_request :
    after (clockEdge (Edge.quiet 7) (mach p4 fullCh idleCh)) (fun t => t.ch0.txlog == [0x61, 0x62]) = true := by decide

/-- 30 R85: the pulses of an edge act after its operation. -/
theorem test_edge_pulse_after_operation :
    after (clockEdge { Edge.quiet 1 with cmd := some 0x3000, txDone1 := true, rx0 := some 0x7E }
        (mach p4 fullCh (queued [] 0 0 true false [0x41]))) (fun t =>
      t.portRsp == some (.count 4) && t.ch1.txflag && t.ch0.rxbuf == 0x7E && t.cmdHeld == none) = true := by decide

/-! ## States that meet the hypotheses of the statements -/

/-- A check that gives the invariant. -/
def invCheck (s : State) : Bool :=
  [Chan.c0, .c1].all (fun ch =>
    Memory.wf (s.chan ch).storage && Storage.within s.params.C (s.chan ch).storage &&
    decide ((s.chan ch).count.toNat ≤ s.params.C) && decide ((s.chan ch).head.toNat < s.params.C) &&
    (List.range (s.chan ch).count.toNat).all (fun i =>
      (cellAt s ch (((s.chan ch).head.toNat + i) % s.params.C)).isSome) &&
    ((s.chan ch).txflag || !(s.chan ch).txlog.isEmpty)) &&
  (!s.halt || s.ch0.ovf || s.ch1.ovf) && (s.params.ovfMode != .report || !s.halt)

theorem stateInv_of_check {s : State} (h : invCheck s = true) : StateInv s := by
  simp only [invCheck, List.all_cons, List.all_nil, Bool.and_true, Bool.and_eq_true, decide_eq_true_eq,
    List.all_eq_true, List.mem_range, Bool.or_eq_true, Bool.not_eq_true', List.isEmpty_eq_false_iff,
    bne_iff_ne, ne_eq] at h
  obtain ⟨⟨⟨h0, h1⟩, h2⟩, h3⟩ := h
  refine ⟨fun ch => ?_, fun hh => ?_, fun hr => ?_⟩
  · cases ch
    · obtain ⟨⟨⟨⟨⟨a, b⟩, c⟩, d⟩, e⟩, f⟩ := h0
      exact ⟨a, b, c, d, e, fun hf => f.resolve_left (by simp [hf])⟩
    · obtain ⟨⟨⟨⟨⟨a, b⟩, c⟩, d⟩, e⟩, f⟩ := h1
      exact ⟨a, b, c, d, e, fun hf => f.resolve_left (by simp [hf])⟩
  · rcases h2 with (h2 | h2) | h2
    · simp [hh] at h2
    · exact .inl h2
    · exact .inr h2
  · rcases h3 with h3 | h3
    · exact absurd hr h3
    · exact h3

/-- A machine with a full armed channel 0 and an armed channel 1 one short of full, heads at the last cell. -/
def busy : State :=
  mach p4 (queued [(0, 0x62), (1, 0x63), (2, 0x64), (3, 0x61)] 3 4 true true [])
    (queued [(0, 0x72), (1, 0x73), (3, 0x71)] 3 3 true true [])

/-- The same in report mode. -/
def busyReport : State := { busy with params := cfg 3 .report .c0 .c1 }

/-- Both channels idle with a received byte pending, relay. -/
def arrived : State := mach (cfg 3 .failstop .c1 .c0) (pending 0x41 idleCh) (pending 0x42 idleCh)

/-- A halted machine, its full channel recorded. -/
def stopped : State := (mach p4 { fullCh with ovf := true } idleCh).setHalt true

theorem busy_inv : StateInv busy := stateInv_of_check (by decide)
theorem busyReport_inv : StateInv busyReport := stateInv_of_check (by decide)
theorem arrived_inv : StateInv arrived := stateInv_of_check (by decide)
theorem stopped_inv : StateInv stopped := stateInv_of_check (by decide)
theorem reset_inv : StateInv State.reset := stateInv_of_check (by decide)

/-- Channel 0 Armed with one byte, channel 1 Draining and ready. -/
def armedOne : State := mach p4 (queued [(0, 0x61)] 0 1 true true []) (queued [] 0 0 true true [])

theorem armedOne_inv : StateInv armedOne := stateInv_of_check (by decide)

theorem witness_DecodeAndEncodeAgree : decode 0x1041 = .op (.push .c0 0x41) := by decide

theorem witness_DecoderFollowsOpcodeMap :
    ∃ (w : Word) (q r : OpcodeRow), q ∈ opcodeMap ∧ r ∈ opcodeMap ∧ w &&& q.mask = q.pattern ∧
      w &&& r.mask = r.pattern := ⟨0x1041, ⟨.PUSH, 0x1000, 0xFE00⟩, ⟨.PUSH, 0x1000, 0xFE00⟩, by decide⟩

theorem witness_StepRunsDecodedWord :
    (∃ (s : State) (w : Word) (rest : List Input) (i : Instr), s.inputs = .word w :: rest ∧ i.wf = true ∧
      decode w = .op i) ∧ (∃ (w : Nat) (i : Instr), decodeTableWord 16 w = some i) :=
  ⟨⟨busy.setInputs [.word 0x3000], 0x3000, [], .size .c0, by decide⟩, 0xF000, .reset, by decide⟩

theorem witness_IllegalWordChangesNothing :
    ∃ (w : Word) (why : Illegal) (s : State) (rest : List Input), decode w = .illegal why ∧
      s.inputs = .word w :: rest := ⟨0xB000, .reservedOpcode, busy.setInputs [.word 0xB000], [], by decide⟩

theorem witness_NopAndSizeOnlyAnswer : busy.halt = false := by decide

theorem witness_PushQueuesTheByte : busy.halt = false ∧ (busy.chan .c0).count.toNat = busy.params.C ∧
    (busy.chan .c1).count.toNat ≠ busy.params.C := by decide

theorem witness_PopTakesTheByteAtHead : State.reset.halt = false ∧ (State.reset.chan .c0).count.toNat = 0 ∧
    busy.halt = false ∧ (busy.chan .c0).count.toNat ≠ 0 ∧ (busy.chan .c0).head.toNat < busy.params.C ∧
    cellAt busy .c0 (busy.chan .c0).head.toNat = some 0x61 := by decide

theorem witness_XmitQueuesAndArms : State.reset.halt = false ∧
    (State.reset.chan .c0).count.toNat ≠ State.reset.params.C ∧
    busy.halt = false ∧ (busy.chan .c1).count.toNat ≠ busy.params.C := by decide

theorem witness_TxcTransmitsOrDisarms :
    (armedOne.halt = false ∧ (armedOne.chan .c1).txIe = true ∧ (armedOne.chan .c1).txflag = true ∧
      (armedOne.chan .c1).count.toNat = 0) ∧
    (busy.halt = false ∧ (busy.chan .c0).txIe = true ∧ (busy.chan .c0).txflag = true ∧
      (busy.chan .c0).count.toNat ≠ 0 ∧ (busy.chan .c0).head.toNat < busy.params.C ∧
      cellAt busy .c0 (busy.chan .c0).head.toNat = some 0x61) := by decide

theorem witness_TxvecServesEveryFlaggedChannel :
    armedOne.halt = false ∧ (∃ ch, (armedOne.chan ch).txIe = true ∧ (armedOne.chan ch).txflag = true) ∧
    (∀ ch, (armedOne.chan ch).txflag = true → (armedOne.chan ch).count.toNat ≠ 0 →
      (armedOne.chan ch).head.toNat < armedOne.params.C ∧
      (cellAt armedOne ch (armedOne.chan ch).head.toNat).isSome = true) :=
  ⟨by decide, ⟨.c0, by decide⟩, fun ch => by cases ch <;> decide⟩

theorem witness_RxdQueuesOnTheRoutedChannel : arrived.halt = false ∧ (arrived.chan .c0).rxflag = true ∧
    (arrived.chan (arrived.params.route .c0)).count.toNat ≠ arrived.params.C := by decide

theorem witness_RxvecServesPendingChannelsInOrder :
    (∃ s : State, s.halt = false ∧ (s.chan .c0).rxflag = true ∧ (s.chan .c1).rxflag = false) ∧
    (∃ s : State, s.halt = false ∧ (s.chan .c0).rxflag = false ∧ (s.chan .c1).rxflag = true) ∧
    (arrived.halt = false ∧ (arrived.chan .c0).rxflag = true ∧ (arrived.chan .c1).rxflag = true) :=
  ⟨⟨mach p4 (pending 1 idleCh) idleCh, by decide⟩, ⟨mach p4 idleCh (pending 1 idleCh), by decide⟩, by decide⟩

/-- The machine of the last clause of `RxvecServesPendingChannelsInOrder`, halted by channel 0's byte. -/
theorem witness_RxvecServesPendingChannelsInOrder_halts :
    after (exec (.rxd .c0) (mach p1 (pending 2 (queued [(0, 1)] 0 1 true true [])) (pending 3 idleCh)))
      (fun t => t.halt) = true := by decide

theorem witness_RxvecQueuesBothBytes : arrived.halt = false ∧ (∀ ch, (arrived.chan ch).rxflag = true) ∧
    arrived.params.route .c0 ≠ arrived.params.route .c1 ∧
    (∀ ch, (arrived.chan ch).count.toNat ≠ arrived.params.C) :=
  ⟨by decide, fun ch => by cases ch <;> decide, by decide, fun ch => by cases ch <;> decide⟩

theorem witness_RxarrLoadsTheReceiveRegister :
    (busy.chan .c0).rxflag = false ∧ (arrived.chan .c0).rxflag = true := by decide

theorem witness_OverflowHaltsInFailstop : ∃ s : State, s.halt = false ∧ s.params.ovfMode = .failstop ∧
    (s.chan .c0).count.toNat = s.params.C ∧ (s.chan .c1).rxflag = true ∧ s.params.route .c1 = .c0 ∧
    (s.chan .c0).rxflag = false :=
  ⟨mach p1 (queued [(0, 1)] 0 1 true true []) (pending 3 idleCh), by decide⟩

theorem witness_OverflowIsReported : ∃ s : State, s.halt = false ∧ s.params.ovfMode = .report ∧
    (s.chan .c0).count.toNat = s.params.C ∧ (s.chan .c1).rxflag = true ∧ s.params.route .c1 = .c0 ∧
    (s.chan .c0).rxflag = false :=
  ⟨mach q1 (queued [(0, 1)] 0 1 true true []) (pending 3 idleCh), by decide⟩

theorem witness_HaltedMachineOnlyAnswers : stopped.halt = true ∧ Instr.xmit .c0 1 ≠ .reset ∧
    (∀ ch, Instr.xmit .c0 1 ≠ .txdone ch) ∧ (∀ ch b, Instr.xmit .c0 1 ≠ .rxarr ch b) :=
  ⟨by decide, by decide, fun _ h => (nomatch h), fun _ _ h => (nomatch h)⟩

theorem witness_DisabledConsumerIsNotReady : State.reset.halt = false ∧
    (∀ ch, ¬ ((State.reset.chan ch).txIe = true ∧ (State.reset.chan ch).txflag = true)) :=
  ⟨by decide, fun ch => by cases ch <;> decide⟩

theorem witness_DisabledReceiveHandlerIsNotReady : busy.halt = false ∧ (∀ ch, (busy.chan ch).rxflag = false) :=
  ⟨by decide, fun ch => by cases ch <;> decide⟩

/-- Also the hypotheses of `OperationsKeepTheSurroundings`. -/
theorem witness_ResponsesOfEachOperation : ∃ t, exec (.txc .c0) busy = .next t := ⟨_, rfl⟩

theorem witness_OperationsKeepTheSurroundings : ∃ t, exec (.push .c1 7) busy = .next t := ⟨_, rfl⟩

theorem witness_NonPushingOperationsKeepStorage :
    ∀ i ∈ [Instr.nop, .pop .c0, .size .c0, .txc .c0, .txvec, .txdone .c0, .rxarr .c0 1],
      after (exec i busy) (fun t => t.rsp != some .notReady) = true := by decide

theorem witness_PushWritesOnlyTheTailCell :
    (∀ i ∈ [Instr.push .c1 7, .xmit .c1 7], after (exec i busy) (fun t => t.rsp == some .accept) = true) ∧
    (∀ i ∈ [Instr.push .c0 7, .xmit .c0 7], after (exec i busy) (fun t => t.rsp != some .accept) = true) := by decide

theorem witness_RxdWritesOnlyTheRoutedTailCell :
    arrived.params.route .c0 = .c1 ∧ (∃ t, exec (.rxd .c0) arrived = .next t ∧ t.rsp = some .accept) ∧
    (∃ t, exec (.rxd .c1) (mach p4 idleCh (pending 9 idleCh)) = .next t ∧ p4.route .c1 = .c1) ∧
    (∃ t, exec (.rxd .c0) busy = .next t ∧ t.rsp ≠ some .accept) :=
  ⟨rfl, ⟨_, rfl, rfl⟩, ⟨_, rfl, rfl⟩, ⟨_, rfl, by decide⟩⟩

theorem witness_ChannelsAreIndependent :
    armedOne.setChan Chan.c0.other (busy.chan .c1) ≠ armedOne ∧ ∃ t, exec (.txc .c0) armedOne = .next t :=
  ⟨by decide, _, rfl⟩

theorem witness_OverflowFlagsAreSticky :
    (∃ t, exec (.xmit .c0 7) busy = .next t ∧ busy.halt = false ∧ t.halt = true) ∧
    (∃ t, exec (.txdone .c0) stopped = .next t ∧ stopped.halt = true ∧ (stopped.chan .c0).ovf = true) :=
  ⟨⟨_, rfl, rfl, rfl⟩, ⟨_, rfl, rfl, rfl⟩⟩

theorem witness_ArmedAndDisarmedOnlyWhereSaid :
    (StateInv State.reset ∧ ∃ t, exec (.xmit .c0 7) State.reset = .next t ∧
      (State.reset.chan .c0).txIe = false ∧ (t.chan .c0).txIe = true) ∧
    (StateInv armedOne ∧ ∃ t, exec (.txc .c1) armedOne = .next t ∧
      (armedOne.chan .c1).txIe = true ∧ (t.chan .c1).txIe = false) :=
  ⟨⟨reset_inv, _, rfl, rfl, rfl⟩, ⟨armedOne_inv, _, rfl, rfl, rfl⟩⟩

theorem witness_TransmitRegisterWrittenOnlyWhenReady :
    ∃ t, exec .txvec busy = .next t ∧ (t.chan .c0).txlog ≠ (busy.chan .c0).txlog := ⟨_, rfl, by decide⟩

theorem witness_EveryStepKeepsTheInvariant : ∃ t, StateInv (busy.setInputs [.word 0x5000]) ∧
    step (busy.setInputs [.word 0x5000]) = .next t := ⟨_, stateInv_of_check (by decide), rfl⟩

theorem witness_OperationsNeverStop : StateInv busy ∧ StateInv stopped := ⟨busy_inv, stopped_inv⟩

/-- One pulse of `tx_done` on two edges: the edge that starts TXVEC writes the transmit register and stops, the edge
that executes NOP does not and goes on. -/
theorem witness_StepStopsOnlyOnEarlyCompletion :
    StateInv (busy.setInputs [.edge { Edge.quiet 0 with txDone0 := true }]) ∧
    step (busy.setInputs [.edge { Edge.quiet 0 with txDone0 := true }]) = .fault (.completedAtWrite .c0) ∧
    (∃ t, edgeOperation { Edge.quiet 0 with txDone0 := true } (busy.setInputs []) = .next t ∧
      txWritten (busy.setInputs []) t .c0 = [0x61]) ∧
    (∃ t, step (busy.setInputs [.edge { Edge.quiet 1 with cmd := some 0x0000, txDone0 := true }]) = .next t) :=
  ⟨stateInv_of_check (by decide), rfl, ⟨_, rfl, rfl⟩, _, rfl⟩

theorem witness_NonEmptyQueueStaysArmed :
    Served armedOne .c0 ∧ (∀ b, Instr.txc .c0 ≠ .push .c0 b) ∧ ∃ t, exec (.txc .c0) armedOne = .next t :=
  ⟨fun _ => rfl, fun _ h => (nomatch h), _, rfl⟩

theorem witness_HistoryGrowsByAcceptedBytes :
    (StateInv busy ∧ ∃ t, exec (.xmit .c1 7) busy = .next t ∧ t.rsp = some .accept) ∧
    (StateInv arrived ∧ arrived.params.route .c0 = .c1 ∧ arrived.params.route .c1 ≠ .c1 ∧
      (∃ t, exec (.rxd .c0) arrived = .next t) ∧ (∃ t, exec (.rxd .c1) arrived = .next t) ∧
      ∃ t, exec .rxvec arrived = .next t ∧ t.rsp = some .done) :=
  ⟨⟨busy_inv, _, rfl, rfl⟩, arrived_inv, rfl, by decide, ⟨_, rfl⟩, ⟨_, rfl⟩, _, rfl, rfl⟩

theorem witness_QueueIsFirstInFirstOut :
    (StateInv busy ∧ ∃ t, exec (.push .c1 7) busy = .next t ∧ t.rsp = some .accept) ∧
    ∃ t, exec (.pop .c0) busy = .next t ∧ t.rsp = some (.some 0x61) :=
  ⟨⟨busy_inv, _, rfl, rfl⟩, _, rfl, rfl⟩

theorem witness_CountNeverWraps :
    StateInv busy ∧ (∃ t, exec (.xmit .c1 7) busy = .next t ∧ t.rsp = some .accept) ∧
    ∃ t, exec (.txc .c0) busy = .next t ∧ t.rsp = some (.some 0x61) :=
  ⟨busy_inv, ⟨_, rfl, rfl⟩, _, rfl, rfl⟩

/-- One slot left and one byte pushed. -/
theorem witness_PushesThenPopsRoundTrip : StateInv busy ∧ busy.halt = false ∧
    (busy.chan .c1).count.toNat + [(7 : Byte)].length ≤ busy.params.C := ⟨busy_inv, by decide, by decide⟩

theorem witness_OneByteTooManyIsRejected : StateInv State.reset ∧ State.reset.halt = false ∧
    (State.reset.chan .c0).count.toNat = 0 ∧ [(1 : Byte), 2, 3, 4].length = State.reset.params.C :=
  ⟨reset_inv, by decide, by decide, by decide⟩

/-- Each premise of each row occurs. -/
theorem witness_TransmitStateMachine :
    StateInv armedOne ∧ armedOne.halt = false ∧ StateInv busyReport ∧ busyReport.halt = false ∧
    (∃ t, exec (.xmit .c1 7) armedOne = .next t ∧ t.rsp = some .accept ∧ txState armedOne .c1 ≠ .stranded) ∧
    (∃ t, exec (.xmit .c0 7) busyReport = .next t ∧ t.rsp = some .overflow) ∧
    (∃ t, exec (.txc .c0) armedOne = .next t ∧ txState armedOne .c0 = .armed ∧
      (armedOne.chan .c0).txflag = true ∧ (armedOne.chan .c0).count.toNat = 1) ∧
    (∃ t, exec (.txc .c1) armedOne = .next t ∧ txState armedOne .c1 = .draining ∧
      (armedOne.chan .c1).txflag = true) ∧
    (StateInv State.reset ∧ ∃ t, exec (.txc .c0) State.reset = .next t ∧ txState State.reset .c0 = .idle) ∧
    (∃ t, exec .txvec (mach p4 (queued [(0, 0x61)] 0 1 true true []) idleCh) = .next t ∧
      txState (mach p4 (queued [(0, 0x61)] 0 1 true true []) idleCh) .c1 = .idle) :=
  ⟨armedOne_inv, rfl, busyReport_inv, rfl, ⟨_, rfl, rfl, by decide⟩, ⟨_, rfl, rfl⟩, ⟨_, rfl, rfl, rfl, rfl⟩,
    ⟨_, rfl, rfl, rfl⟩, ⟨reset_inv, _, rfl, rfl⟩, _, rfl, rfl⟩

/-- Channel 0's request is up and channel 1's is not. -/
theorem witness_SharedVectorAgreesWithTxc : ∃ s : State, s.halt = false ∧ (∀ c, Served s c) ∧ irqTx s = true ∧
    (∃ t, exec .txvec s = .next t) ∧ txRequest s .c0 = true ∧ txRequest s .c1 = false :=
  ⟨mach p4 (queued [(0, 0x61)] 0 1 true true []) idleCh, rfl, fun c => by cases c <;> (unfold Served; decide), rfl,
    ⟨_, rfl⟩, rfl, rfl⟩

theorem witness_DrainTransmitsEverything : StateInv busy ∧ busy.halt = false ∧ (busy.chan .c0).txIe = true :=
  ⟨busy_inv, rfl, rfl⟩

theorem witness_BurstTakesOneInvocationMore : StateInv State.reset ∧ State.reset.halt = false ∧
    txState State.reset .c0 = .idle ∧ [(1 : Byte), 2, 3, 4] ≠ [] ∧
    [(1 : Byte), 2, 3, 4].length ≤ State.reset.params.C := ⟨reset_inv, rfl, rfl, by decide, by decide⟩

/-- What a step of a meaning leaves, for writing down a run. -/
def afterOp (i : Instr) (s : State) : State :=
  match exec i s with
  | .next t => t
  | _ => s

/-- `armedOne` with a byte pending on channel 1, which echoes it. -/
def servedStart : State := mach p4 (queued [(0, 0x61)] 0 1 true true []) (pending 0x7E (queued [] 0 0 true true []))

theorem servedStart_inv : StateInv servedStart := stateInv_of_check (by decide)

/-- A run that reads channel 1's byte with RXVEC, transmits channel 0's byte, disarms channel 0, and does nothing from
then on. -/
def servedRun : Run where
  op n := match n with
    | 0 => .rxvec
    | 1 => .txc .c0
    | 2 => .txdone .c0
    | 3 => .txc .c0
    | _ => .nop
  state n :=
    let s1 := afterOp .rxvec servedStart
    let s2 := afterOp (.txc .c0) s1
    let s3 := afterOp (.txdone .c0) s2
    let s4 := afterOp (.txc .c0) s3
    match n with
    | 0 => servedStart
    | 1 => s1
    | 2 => s2
    | 3 => s3
    | 4 => s4
    | _ => afterOp .nop s4

theorem servedRun_legal : servedRun.legal := by
  intro n
  match n with
  | 0 => rfl
  | 1 => rfl
  | 2 => rfl
  | 3 => rfl
  | 4 => rfl
  | _ + 5 => rfl

theorem servedRun_completes : servedRun.completes .c0 := by
  intro n h
  match n with
  | 0 => cases h
  | 1 => cases h
  | 2 => exact ⟨2, Nat.le_refl _, rfl⟩
  | 3 => cases h
  | 4 => cases h
  | _ + 5 => cases h

theorem servedRun_serves : servedRun.servesTransmit .c0 := by
  intro n h
  have : txRequest (servedRun.state (n + 5)) .c0 = true := h (n + 5) (Nat.le_add_right n 5)
  cases this

theorem servedRun_running (n : Nat) : (servedRun.state n).halt = false := by
  match n with
  | 0 => rfl
  | 1 => rfl
  | 2 => rfl
  | 3 => rfl
  | 4 => rfl
  | _ + 5 => rfl

theorem servedRun_ops (n : Nat) : servedRun.op n ∈ [Instr.rxvec, .txc .c0, .txdone .c0, .nop] := by
  match n with
  | 0 => decide
  | 1 => decide
  | 2 => decide
  | 3 => decide
  | _ + 4 => exact .tail _ (.tail _ (.tail _ (.head _)))

theorem servedRun_quiet (n : Nat) : servedRun.op n ≠ .reset ∧ servedRun.op n ≠ .pop .c0 ∧
    (∀ b, servedRun.op n ≠ .push .c0 b ∧ servedRun.op n ≠ .xmit .c0 b) ∧ ∀ src, servedRun.op n ≠ .rxd src := by
  have h := servedRun_ops n
  simp only [List.mem_cons, List.not_mem_nil, or_false] at h
  rcases h with h | h | h | h <;> rw [h] <;> simp

/-- RXVEC runs once, with channel 1's byte alone pending. -/
theorem servedRun_rxvec (n : Nat) (h : servedRun.op n = .rxvec) (src : Chan)
    (hp : ((servedRun.state n).chan src).rxflag = true) : (servedRun.state n).params.route src ≠ .c0 := by
  match n with
  | 0 => cases src with
    | c0 => cases hp
    | c1 => decide
  | 1 => cases h
  | 2 => cases h
  | 3 => cases h
  | _ + 4 => cases h

theorem witness_EveryAcceptedByteIsTransmitted :
    servedRun.legal ∧ servedRun.completes .c0 ∧ servedRun.servesTransmit .c0 ∧ StateInv (servedRun.state 0) ∧
    Served (servedRun.state 0) .c0 ∧ (∀ n, (servedRun.state n).halt = false) ∧
    (∀ n, servedRun.op n ≠ .reset ∧ servedRun.op n ≠ .pop .c0 ∧ ∀ b, servedRun.op n ≠ .push .c0 b) ∧
    history (servedRun.state 0) .c0 ≠ [] :=
  ⟨servedRun_legal, servedRun_completes, servedRun_serves, servedStart_inv, fun _ => rfl, servedRun_running,
    fun n => ⟨(servedRun_quiet n).1, (servedRun_quiet n).2.1, fun b => ((servedRun_quiet n).2.2.1 b).1⟩, by decide⟩

theorem witness_ChannelReturnsToIdle :
    servedRun.legal ∧ servedRun.completes .c0 ∧ servedRun.servesTransmit .c0 ∧ StateInv (servedRun.state 0) ∧
    Served (servedRun.state 0) .c0 ∧ (∀ n, (servedRun.state n).halt = false) ∧
    (∀ n, servedRun.op n ≠ .reset ∧ servedRun.op n ≠ .pop .c0 ∧
      (∀ b, servedRun.op n ≠ .push .c0 b ∧ servedRun.op n ≠ .xmit .c0 b) ∧
      (∀ src, servedRun.op n = .rxd src → (servedRun.state n).params.route src ≠ .c0) ∧
      (servedRun.op n = .rxvec → ∀ src, ((servedRun.state n).chan src).rxflag = true →
        (servedRun.state n).params.route src ≠ .c0)) ∧
    txState (servedRun.state 0) .c0 = .armed ∧ servedRun.op 0 = .rxvec :=
  ⟨servedRun_legal, servedRun_completes, servedRun_serves, servedStart_inv, fun _ => rfl, servedRun_running,
    fun n => ⟨(servedRun_quiet n).1, (servedRun_quiet n).2.1, (servedRun_quiet n).2.2.1,
      fun src h => absurd h ((servedRun_quiet n).2.2.2 src), servedRun_rxvec n⟩, rfl, rfl⟩

/-- A run that reads channel 0's pending byte and does nothing from then on. -/
def readRun : Run where
  op n := match n with
    | 0 => .rxd .c0
    | _ => .nop
  state n := match n with
    | 0 => arrived
    | 1 => afterOp (.rxd .c0) arrived
    | _ => afterOp .nop (afterOp (.rxd .c0) arrived)

theorem witness_EveryPendingByteIsRead : readRun.legal ∧ readRun.servesReceive .c0 ∧
    (∀ n, (readRun.state n).halt = false) ∧ (∀ n, readRun.op n ≠ .reset) ∧
    ((readRun.state 0).chan .c0).rxflag = true := by
  refine ⟨fun n => ?_, fun n h => ?_, fun n => ?_, fun n => ?_, rfl⟩
  · match n with
    | 0 => rfl
    | 1 => rfl
    | _ + 2 => rfl
  · have : rxRequest (readRun.state (n + 2)) .c0 = true := h (n + 2) (Nat.le_add_right n 2)
    cases this
  · match n with
    | 0 => rfl
    | 1 => rfl
    | _ + 2 => rfl
  · match n with
    | 0 => decide
    | _ + 1 => exact fun h => (nomatch h)

/-- A configuration of each wiring. -/
theorem witness_RequestLinesFollowTheFlags :
    busy.params.sharedVec = true ∧ ({ p4 with sharedVec := false } : Params).sharedVec = false := ⟨rfl, rfl⟩

theorem witness_QueueOutputsShowTheRegisters : busy.halt = false := by decide

theorem witness_BuildContractIsEnforced :
    ((RawParams.mk 255 .report .c0 .c1 true).build?.map Params.C) = some 255 := by decide

theorem witness_CommandPortTakesHostOperationsOnly :
    decode 0x4041 = .op (.xmit .c0 0x41) ∧ decode 0x9000 = .op (.txdone .c0) := by decide

/-- With shared and with dedicated vectors. -/
theorem witness_OnlyEnabledHandlersStart :
    Instr.txvec ∈ enabledHandlers busy ∧ (∃ t, exec .txvec busy = .next t) ∧
    Instr.txc .c1 ∈ enabledHandlers { busy with params := { p4 with sharedVec := false } } ∧
    ∃ t, exec (.txc .c1) { busy with params := { p4 with sharedVec := false } } = .next t :=
  ⟨by decide, ⟨_, rfl⟩, by decide, _, rfl⟩

theorem witness_EdgeIsAShortRun :
    (∃ e : Edge, e.rst = true) ∧
    ∃ (e : Edge) (t : State), e.rst = false ∧ e.events ≠ [] ∧ clockEdge e busy = .next t :=
  ⟨⟨{ Edge.quiet 0 with rst := true }, rfl⟩, { Edge.quiet 0 with rx1 := some 5 }, _, rfl, by decide, rfl⟩

/-- The four choices of the arbiter: a handler, a word the port takes, a word it answers ILLEGAL, and
nothing where nothing is possible. -/
theorem witness_EdgeIsAShortRun_operations :
    arbitrate (Edge.quiet 0) busy = some (.handler .txvec) ∧
    arbitrate { Edge.quiet 1 with cmd := some 0x3000 } busy = some (.host 0x3000) ∧
    Context.mainline.starts (.size .c0) = true ∧
    arbitrate { Edge.quiet 1 with cmd := some 0x5000 } busy = some (.host 0x5000) ∧
    Context.mainline.starts (.txc .c0) = false ∧
    enabledHandlers State.reset = [] ∧ presentedWord (Edge.quiet 1) State.reset = none :=
  ⟨by decide, by decide, rfl, by decide, rfl, by decide, rfl⟩

/-- One edge executes the presented word, the other does not. -/
theorem witness_UngrantedWordStaysPresented :
    (∃ t, clockEdge { Edge.quiet 1 with cmd := some 0x3000 } busy = .next t ∧
      cmdReady { Edge.quiet 1 with cmd := some 0x3000 } busy = true) ∧
    (∃ t, clockEdge { Edge.quiet 0 with cmd := some 0x3000 } busy = .next t ∧
      cmdReady { Edge.quiet 0 with cmd := some 0x3000 } busy = false) := ⟨⟨_, rfl, rfl⟩, _, rfl, rfl⟩

end Sys2Proof.Tests
end

/-! The outputs that 10_state R36 and R37 define: the queue registers as shown on the pins, the two request lines,
and the handlers the block can start (60 R163, R167). -/

namespace Sys2Proof.Machine

section queueOutputs
variable (s : State) (ch : Chan)

/-- The insert position fits the eight bits of `tail_o`, since it is below the capacity (10_state R36). -/
theorem tailOut_toNat : (tailOut s ch).toNat = s.tail ch := by
  have hlt : s.tail ch < 2 ^ 8 := by
    have := tail_lt s ch
    have := Params_C_le s.params
    omega
  simp only [tailOut, BitVec.toNat_ofNat, Nat.mod_eq_of_lt hlt]

theorem empty_iff : empty s ch = true ↔ (s.chan ch).count.toNat = 0 := decide_eq_true_iff

theorem full_iff : full s ch = true ↔ (s.chan ch).count.toNat = s.params.C := decide_eq_true_iff

/-- The capacity is positive, so no queue is both empty and full (10_state R25). -/
theorem not_empty_and_full : ¬ (empty s ch = true ∧ full s ch = true) := by
  rintro ⟨hempty, hfull⟩
  rw [empty_iff] at hempty
  rw [full_iff] at hfull
  have := Params_C_pos s.params
  omega

/-- SIZE on a running machine answers `count` (40 R103). -/
theorem exec_size_running (h : s.halt = false) :
    exec (.size ch) s = .next (s.respond (.count (s.chan ch).count)) :=
  unlessHalted_running s _ h

end queueOutputs

section requests
variable (s : State) (ch : Chan)

theorem globalEnable_iff : globalEnable s = true ↔ ¬ s.halt = true := by
  simp [globalEnable]

/-- The transmit-complete request of a channel (42 R130). -/
theorem txRequest_iff :
    txRequest s ch = true ↔ ¬ s.halt = true ∧ (s.chan ch).txIe = true ∧ (s.chan ch).txflag = true := by
  rw [txRequest, Bool.and_eq_true, Bool.and_eq_true, globalEnable_iff, and_assoc]

/-- The receive request of a channel (43 R140). -/
theorem rxRequest_iff : rxRequest s ch = true ↔ ¬ s.halt = true ∧ (s.chan ch).rxflag = true := by
  rw [rxRequest, Bool.and_eq_true, globalEnable_iff]

/-- The shared transmit line is the OR of the channels' requests (10_state R37). -/
theorem irqTx_iff :
    irqTx s = true ↔ ¬ s.halt = true ∧
      (((s.chan .c0).txIe = true ∧ (s.chan .c0).txflag = true) ∨
       ((s.chan .c1).txIe = true ∧ (s.chan .c1).txflag = true)) := by
  rw [irqTx, Bool.or_eq_true, txRequest_iff, txRequest_iff, and_or_left]

/-- The shared receive line is the OR of the channels' requests (10_state R37). -/
theorem irqRx_iff :
    irqRx s = true ↔ ¬ s.halt = true ∧ ((s.chan .c0).rxflag = true ∨ (s.chan .c1).rxflag = true) := by
  rw [irqRx, Bool.or_eq_true, rxRequest_iff, rxRequest_iff, and_or_left]

/-- A transmit source requests service when its channel does (60 R163, R164). -/
theorem request_transmitComplete : (IrqSource.transmitComplete ch).request s = txRequest s ch := rfl

/-- A receive source has no enable bit of its own (60 R163, R165). -/
theorem request_receive : (IrqSource.receive ch).request s = rxRequest s ch := by
  simp only [IrqSource.request, IrqSource.enabled, IrqSource.pending, rxRequest, Bool.and_true]

end requests

section handlers
variable {s : State} {i : Instr}

/-- With shared vectors each line starts its one handler (60 R167). -/
theorem mem_enabledHandlers_shared (h : s.params.sharedVec = true) :
    i ∈ enabledHandlers s ↔ (i = .txvec ∧ irqTx s = true) ∨ (i = .rxvec ∧ irqRx s = true) := by
  simp only [enabledHandlers, h, if_true, List.mem_append, List.mem_ite_nil_right, List.mem_singleton, and_comm]

/-- With dedicated vectors each requesting source starts its own handler: the four sources listed are all there
are (60 R163). -/
theorem mem_enabledHandlers_iff_source (h : s.params.sharedVec = false) :
    i ∈ enabledHandlers s ↔ ∃ q : IrqSource, q.request s = true ∧ q.handler false = i := by
  have hall : ∀ q : IrqSource, q ∈ [IrqSource.transmitComplete .c0, .transmitComplete .c1, .receive .c0,
      .receive .c1] := by
    rintro (ch | ch) <;> cases ch <;> decide
  simp only [enabledHandlers, h, Bool.false_eq_true, if_false, List.mem_map, List.mem_filter, hall, true_and]

/-- With dedicated vectors the handlers are TXC and RXD of the requesting channels (60 R163). -/
theorem mem_enabledHandlers_dedicated (h : s.params.sharedVec = false) :
    i ∈ enabledHandlers s ↔
      ∃ ch, (i = .txc ch ∧ txRequest s ch = true) ∨ (i = .rxd ch ∧ rxRequest s ch = true) := by
  rw [mem_enabledHandlers_iff_source h]
  constructor
  · rintro ⟨q, hq, rfl⟩
    cases q with
    | transmitComplete ch => exact ⟨ch, .inl ⟨rfl, hq⟩⟩
    | receive ch => exact ⟨ch, .inr ⟨rfl, request_receive s ch ▸ hq⟩⟩
  · rintro ⟨ch, ⟨rfl, hreq⟩ | ⟨rfl, hreq⟩⟩
    · exact ⟨.transmitComplete ch, hreq, rfl⟩
    · exact ⟨.receive ch, (request_receive s ch).trans hreq, rfl⟩

end handlers

/-- Settles O52: `tail_o` is exact because the capacity is at most 255; the other outputs are the registers. -/
theorem queueOutputsShowTheRegisters : Obligations.QueueOutputsShowTheRegisters := fun s ch =>
  ⟨rfl, rfl, tailOut_toNat s ch, exec_size_running s ch, not_empty_and_full s ch⟩

/-- Settles O53: the lines by distributing `NOT halt` over the channels, the handlers by the wiring. -/
theorem requestLinesFollowTheFlags : Obligations.RequestLinesFollowTheFlags := by
  refine fun s => ⟨irqTx_iff s, irqRx_iff s, fun hshared _ => mem_enabledHandlers_shared hshared,
    fun hdedicated i => ?_⟩
  simp only [mem_enabledHandlers_dedicated hdedicated, txRequest_iff, rxRequest_iff]

end Sys2Proof.Machine

/-! Which words are legal, said of the fields of the word (30_encoding R71 to R77): the decoder and the opcode map
both say that the reserved bits are clear and that the operand fields fit the format of the row `OPC` names. -/

namespace Sys2Proof

/-- A word is a packed word exactly when its fields are the packed ones. -/
theorem eq_packWord_iff (w : Word) (m : Mnemonic) (ch : Chan) (d : Byte) :
    w = packWord m.opc ch d ↔ rsvOf w = 0 ∧ opcOf w = m.opc ∧ chOf w = ch ∧ dataOf w = d := by
  constructor
  · rintro rfl
    exact ⟨rsvOf_packWord m ch d, opcOf_packWord m ch d, chOf_packWord m ch d, dataOf_packWord m ch d⟩
  · rintro ⟨hrsv, hopc, rfl, rfl⟩
    rw [← hopc, packWord_fields w hrsv]

/-- The operand fields fit the format: an absent operand is zero (30_encoding R72 to R74). -/
def Format.admits : Format → Chan → Byte → Prop
  | .z, ch, d => ch = .c0 ∧ d = 0
  | .c, _, d => d = 0
  | .cd, _, _ => True

theorem mnemonicOf_eq_some_iff (n : Nat) (m : Mnemonic) : mnemonicOf n = some m ↔ n = m.opc :=
  ⟨fun h => (mnemonicOf_some h).symm, fun h => h ▸ mnemonicOf_opc m⟩

section decoder
variable (w : Word) (ch : Chan) (d : Byte)

/-- A word is illegal exactly when it stands for no operation. -/
theorem Decoded.instr?_eq_none_iff (x : Decoded) : x.instr? = none ↔ ∃ why, x = .illegal why := by
  cases x with
  | op i => simp [Decoded.instr?]
  | illegal why => simp [Decoded.instr?]

theorem formatZ_instr?_eq_none_iff (i : Instr) :
    (formatZ i ch d).instr? = none ↔ ¬ Format.z.admits ch d := by
  cases ch with
  | c0 => by_cases hd : d = 0#8 <;> simp [formatZ, Format.admits, Decoded.instr?, hd]
  | c1 => simp [formatZ, Format.admits, Decoded.instr?]

theorem formatC_instr?_eq_none_iff (k : Chan → Instr) :
    (formatC k ch d).instr? = none ↔ ¬ Format.c.admits ch d := by
  by_cases hd : d = 0#8 <;> simp [formatC, Format.admits, Decoded.instr?, hd]

theorem formatCD_instr?_eq_none_iff (k : Chan → Byte → Instr) :
    (formatCD k ch d).instr? = none ↔ ¬ Format.cd.admits ch d := by
  simp [formatCD, Format.admits, Decoded.instr?]

theorem operationOf_instr?_eq_none_iff (m : Mnemonic) :
    (operationOf m ch d).instr? = none ↔ ¬ m.format.admits ch d := by
  cases m with
  | NOP | TXVEC | RXVEC | RESET => exact formatZ_instr?_eq_none_iff ch d _
  | POP | SIZE | TXC | RXD | TXDONE => exact formatC_instr?_eq_none_iff ch d _
  | PUSH | XMIT | RXARR => exact formatCD_instr?_eq_none_iff ch d _

/-- The decoder on the fields: a word is illegal when a reserved bit is set, or when its operand fields do not fit the
row its `OPC` names, if there is one. -/
theorem decode_instr?_eq_none_iff :
    (decode w).instr? = none ↔
      rsvOf w ≠ 0 ∨ ∀ m, mnemonicOf (opcOf w) = some m → ¬ m.format.admits (chOf w) (dataOf w) := by
  by_cases hrsv : rsvOf w = 0#3
  · cases hm : mnemonicOf (opcOf w) with
    | none => simp [decode, hrsv, hm, Decoded.instr?]
    | some m => simp [decode, hrsv, hm, operationOf_instr?_eq_none_iff]
  · simp [decode, hrsv, Decoded.instr?]

end decoder

/-- The bits a row of this format fixes (30_encoding R76). -/
def Format.mask : Format → Word
  | .z => 0xFFFF
  | .c => 0xFEFF
  | .cd => 0xFE00

/-- The row of a mnemonic: its code with absent operands zero, and the bits its format fixes. -/
def Mnemonic.row (m : Mnemonic) : OpcodeRow := ⟨m, packWord m.opc .c0 0, m.format.mask⟩

theorem mem_opcodeMap_iff (r : OpcodeRow) : r ∈ opcodeMap ↔ ∃ m : Mnemonic, m.row = r := by
  have hmap : opcodeMap = mnemonics.map Mnemonic.row := by decide
  have hall : ∀ m : Mnemonic, m ∈ mnemonics := by
    intro m
    cases m <;> decide
  simp only [hmap, List.mem_map, hall, true_and]

section mask
variable (w : Word) (f : Format)

theorem opcOf_and_mask : opcOf (w &&& f.mask) = opcOf w := by
  have hones : f.mask.extractLsb' 12 4 = BitVec.allOnes 4 := by cases f <;> rfl
  rw [opcOf, BitVec.extractLsb'_and, hones, BitVec.and_allOnes, opcOf]

theorem rsvOf_and_mask : rsvOf (w &&& f.mask) = rsvOf w := by
  have hones : f.mask.extractLsb' 9 3 = BitVec.allOnes 3 := by cases f <;> rfl
  rw [rsvOf, BitVec.extractLsb'_and, hones, BitVec.and_allOnes, rsvOf]

/-- The masked word has zero operands exactly when the word's operand fields fit the format. -/
theorem operands_and_mask :
    (chOf (w &&& f.mask) = .c0 ∧ dataOf (w &&& f.mask) = 0) ↔ f.admits (chOf w) (dataOf w) := by
  have hones (d : Byte) : d &&& 255#8 = d := BitVec.and_allOnes
  cases f <;> simp [chOf, dataOf, Format.mask, Format.admits, BitVec.extractLsb'_and, hones]

/-- A word matches a row when its reserved bits are clear, its `OPC` names the row, and its operand fields fit the
row's format. -/
theorem matches_row_iff (m : Mnemonic) :
    w &&& m.row.mask = m.row.pattern ↔
      rsvOf w = 0 ∧ mnemonicOf (opcOf w) = some m ∧ m.format.admits (chOf w) (dataOf w) := by
  rw [mnemonicOf_eq_some_iff, ← operands_and_mask, ← rsvOf_and_mask w m.format, ← opcOf_and_mask w m.format]
  exact eq_packWord_iff _ m .c0 0

end mask

/-- A word is illegal when it matches no row of the opcode map (30_encoding R77). -/
theorem decode_instr?_eq_none_iff_no_row (w : Word) :
    (decode w).instr? = none ↔ ∀ r ∈ opcodeMap, w &&& r.mask ≠ r.pattern := by
  have hrows : (∀ r ∈ opcodeMap, w &&& r.mask ≠ r.pattern) ↔
      ∀ m : Mnemonic, w &&& m.row.mask ≠ m.row.pattern := by
    simp only [mem_opcodeMap_iff, forall_exists_index, forall_apply_eq_imp_iff]
  rw [decode_instr?_eq_none_iff, hrows]
  simp only [ne_eq, matches_row_iff, not_and, imp_iff_not_or, forall_or_left]

section fields
variable (w : Word)

theorem toNat_shiftRight_eq_opcOf : (w >>> 12).toNat = opcOf w := by
  have h := w.isLt
  simp only [opcOf, BitVec.extractLsb'_toNat, BitVec.toNat_ushiftRight, Nat.shiftRight_eq_div_pow]
  omega

theorem opcOf_lt : opcOf w < 16 := (w.extractLsb' 12 4).isLt

/-- Masking a word to the bits of a field gives 0 exactly when the field is 0. -/
theorem and_fieldMask_eq_zero_iff (start len : Nat) (hfit : start + len ≤ 16) :
    w &&& ((BitVec.allOnes len).setWidth 16 <<< start) = 0 ↔ w.extractLsb' start len = 0 := by
  constructor
  · intro h
    apply BitVec.eq_of_getLsbD_eq
    intro i hi
    have hbit := congrArg (·.getLsbD (start + i)) h
    have hlt : start + i < 16 := by omega
    simpa [hi, hlt] using hbit
  · intro h
    apply BitVec.eq_of_getLsbD_eq
    intro i hi
    by_cases hin : start ≤ i ∧ i - start < len
    · have hbit : w.getLsbD i = false := by
        simpa [hin.2, Nat.add_sub_cancel' hin.1] using congrArg (·.getLsbD (i - start)) h
      simp only [BitVec.getLsbD_and, hbit, Bool.false_and, BitVec.ofNat_eq_ofNat, BitVec.getLsbD_zero]
    · have hbit : ((BitVec.allOnes len).setWidth 16 <<< start).getLsbD i = false := by
        have hout : i < start ∨ len ≤ i - start := by omega
        simpa [hi, imp_iff_or_not, or_comm] using hout
      simp only [BitVec.getLsbD_and, hbit, Bool.and_false, BitVec.ofNat_eq_ofNat, BitVec.getLsbD_zero]

theorem and_rsv_eq_zero_iff : w &&& 0x0E00 = 0 ↔ rsvOf w = 0 :=
  and_fieldMask_eq_zero_iff w 9 3 (by decide)

theorem and_data_eq_zero_iff : w &&& 0x00FF = 0 ↔ dataOf w = 0 :=
  and_fieldMask_eq_zero_iff w 0 8 (by decide)

theorem and_ch_eq_zero_iff : w &&& 0x0100 = 0 ↔ chOf w = .c0 := by
  have hbit : w &&& 0x0100 = if w.getLsbD 8 then BitVec.twoPow 16 8 else 0 := BitVec.and_twoPow w 8
  rw [hbit, chOf]
  cases w.getLsbD 8 <;> decide

end fields

/-- The codes of no row (30_encoding R77). -/
theorem mnemonicOf_eq_none_iff {n : Nat} (h : n < 16) : mnemonicOf n = none ↔ 0xB ≤ n ∧ n ≤ 0xE := by
  revert n
  decide

/-- The rows of format C and Z (30_encoding R76). -/
theorem format_ne_cd_iff (m : Mnemonic) :
    m.format ≠ .cd ↔ m.opc ∈ [0x0, 0x2, 0x3, 0x5, 0x6, 0x7, 0x8, 0x9, 0xF] := by
  cases m <;> decide

/-- The rows of format Z (30_encoding R76). -/
theorem format_eq_z_iff (m : Mnemonic) : m.format = .z ↔ m.opc ∈ [0x0, 0x7, 0x8, 0xF] := by
  cases m <;> decide

theorem not_admits_iff (f : Format) (ch : Chan) (d : Byte) :
    ¬ f.admits ch d ↔ (d ≠ 0 ∧ f ≠ .cd) ∨ (ch ≠ .c0 ∧ f = .z) := by
  cases f with
  | z => simp [Format.admits, imp_iff_not_or, or_comm]
  | c => simp [Format.admits]
  | cd => simp [Format.admits]

/-- A word is illegal when no row has its `OPC`, a reserved bit is set, or an absent operand is not zero
(30_encoding R77). -/
theorem decode_instr?_eq_none_iff_fields (w : Word) :
    (decode w).instr? = none ↔
      mnemonicOf (opcOf w) = none ∨ rsvOf w ≠ 0 ∨
      (dataOf w ≠ 0 ∧ opcOf w ∈ [0x0, 0x2, 0x3, 0x5, 0x6, 0x7, 0x8, 0x9, 0xF]) ∨
      (chOf w ≠ .c0 ∧ opcOf w ∈ [0x0, 0x7, 0x8, 0xF]) := by
  rw [decode_instr?_eq_none_iff]
  cases hm : mnemonicOf (opcOf w) with
  | none => simp
  | some m =>
    have hopc : opcOf w = m.opc := (mnemonicOf_eq_some_iff _ m).1 hm
    simp only [hopc, ← format_ne_cd_iff, ← format_eq_z_iff, ← not_admits_iff, Option.some_inj, forall_eq',
      reduceCtorEq, false_or]

/-- Settles O3: decoder and opcode map are both read as conditions on the word's fields. -/
theorem illegalWordsAreExactlyThese : Obligations.IllegalWordsAreExactlyThese := by
  unfold Obligations.IllegalWordsAreExactlyThese
  simp only [← Decoded.instr?_eq_none_iff]
  refine ⟨decode_instr?_eq_none_iff_no_row, fun w => ?_, ?examples⟩
  simp only [decode_instr?_eq_none_iff_fields, mnemonicOf_eq_none_iff (opcOf_lt w), toNat_shiftRight_eq_opcOf,
    ne_eq, and_rsv_eq_zero_iff, and_data_eq_zero_iff, and_ch_eq_zero_iff]
  case examples =>
    simp only [List.forall_mem_cons, List.not_mem_nil, false_imp_iff, implies_true]
    decide

end Sys2Proof

/-! An illegal word never runs an operation, whichever way it reaches the block (30_encoding R78). -/

namespace Sys2Proof.Machine

section illegal
variable {w : Word} {why : Illegal} (h : decode w = .illegal why) (s : State)
include h

/-- In a trace the illegal word is answered before the halt test (60 R169). -/
theorem runWord_illegal : runWord w s = .next (s.respond .illegal) := by
  simp only [runWord, h, answer]

/-- On the command port the illegal word is answered as one the port does not take (30_encoding R83). -/
theorem runPortWord_illegal : runPortWord w s = .next (s.respond .illegal) := by
  simp only [runPortWord, h, answer]

end illegal

/-- A step on a trace word takes the word off the input stream and runs it (30_encoding R84). -/
theorem step_word {s : State} {w : Word} {rest : List Input} (h : s.inputs = .word w :: rest) :
    step s = runWord w (s.setInputs rest) := by
  simp only [step, advance, h, takeInput]

/-- Settles O7: no way a word reaches the block runs an operation when the decoder gives none. -/
theorem illegalWordChangesNothing : Obligations.IllegalWordChangesNothing :=
  ⟨rfl, fun _ _ s h => ⟨runWord_illegal h s, runPortWord_illegal h s,
    fun rest hin => (step_word hin).trans (runWord_illegal h (s.setInputs rest))⟩⟩

end Sys2Proof.Machine

/-! A transmit handler that is not enabled: a trace may still name it, the arbiter may not start it (42 R134). -/

namespace Sys2Proof.Machine

section disabledConsumer
variable {s : State} {ch : Chan}

/-- The arbiter starts TXC only for a requesting channel, and only with dedicated vectors (60 R163, R167). -/
theorem txc_mem_enabledHandlers_iff :
    .txc ch ∈ enabledHandlers s ↔ s.params.sharedVec = false ∧ txRequest s ch = true := by
  cases hvec : s.params.sharedVec with
  | true => simp [mem_enabledHandlers_shared hvec]
  | false => simp [mem_enabledHandlers_dedicated hvec]

/-- The arbiter starts TXVEC only when some channel requests, and only with shared vectors (60 R167). -/
theorem txvec_mem_enabledHandlers_iff :
    .txvec ∈ enabledHandlers s ↔ s.params.sharedVec = true ∧ irqTx s = true := by
  cases hvec : s.params.sharedVec with
  | true => simp [mem_enabledHandlers_shared hvec]
  | false => simp [mem_enabledHandlers_dedicated hvec]

theorem exec_txc_notReady (hrun : s.halt = false) (hreq : ¬ txRequest s ch = true) :
    exec (.txc ch) s = .next (s.respond .notReady) :=
  (unlessHalted_running s _ hrun).trans (if_neg hreq)

theorem exec_txvec_notReady (hrun : s.halt = false) (hirq : ¬ irqTx s = true) :
    exec .txvec s = .next (s.respond .notReady) :=
  (unlessHalted_running s _ hrun).trans (if_neg hirq)

end disabledConsumer

/-- Settles O23: a channel that is not both armed and flagged makes no transmit request, and without a request the
handler answers NOTREADY and is not enabled. -/
theorem disabledConsumerIsNotReady : Obligations.DisabledConsumerIsNotReady := by
  refine fun s hrun => ⟨fun ch hch => ?txc, fun hall => ?txvec⟩
  case txc =>
    have hreq : ¬ txRequest s ch = true := fun h => hch ((txRequest_iff s ch).1 h).2
    exact ⟨exec_txc_notReady hrun hreq, fun hmem => hreq (txc_mem_enabledHandlers_iff.1 hmem).2⟩
  case txvec =>
    have hirq : ¬ irqTx s = true := fun h => ((irqTx_iff s).1 h).2.elim (hall .c0) (hall .c1)
    exact ⟨exec_txvec_notReady hrun hirq, fun hmem => hirq (txvec_mem_enabledHandlers_iff.1 hmem).2⟩

end Sys2Proof.Machine

/-! A receive handler that is not enabled, named in a trace: it reads no register (43 R146). -/

namespace Sys2Proof.Machine

section disabledReceiver
variable {s : State} {ch : Chan}

theorem exec_rxd_notReady (hrun : s.halt = false) (hreq : ¬ rxRequest s ch = true) :
    exec (.rxd ch) s = .next (s.respond .notReady) :=
  (unlessHalted_running s _ hrun).trans (if_neg hreq)

theorem exec_rxvec_notReady (hrun : s.halt = false) (hirq : ¬ irqRx s = true) :
    exec .rxvec s = .next (s.respond .notReady) :=
  (unlessHalted_running s _ hrun).trans (if_neg hirq)

end disabledReceiver

/-- Settles O24: a channel with nothing pending makes no receive request, the shared line carries none when both
channels are so, and without a request the handler answers NOTREADY. -/
theorem disabledReceiveHandlerIsNotReady : Obligations.DisabledReceiveHandlerIsNotReady := by
  refine fun s hrun => ⟨fun ch hflag => ?rxd, fun hall => ?rxvec⟩
  case rxd =>
    have hreq : ¬ rxRequest s ch = true := fun h =>
      Bool.eq_false_iff.1 hflag ((rxRequest_iff s ch).1 h).2
    exact exec_rxd_notReady hrun hreq
  case rxvec =>
    have hidle (ch : Chan) : ¬ (s.chan ch).rxflag = true := Bool.eq_false_iff.1 (hall ch)
    have hirq : ¬ irqRx s = true := fun h => ((irqRx_iff s).1 h).2.elim (hidle .c0) (hidle .c1)
    exact exec_rxvec_notReady hrun hirq

end Sys2Proof.Machine

/-! Taking QueueOverflow from each operation that can (60 R170, R171), in both modes at once: the state left behind is
`raiseQueueOverflow` of the state the operation had reached. -/

namespace Sys2Proof.Machine

section overflow

/-- Recording the overflow, and halting, leave every receive flag as it was. -/
@[simp] theorem rxflag_raiseQueueOverflow (ch d : Chan) (s : State) :
    ((raiseQueueOverflow ch s).chan d).rxflag = (s.chan d).rxflag := by
  rw [raiseQueueOverflow_eq, setHalt_chan, chan_setChan]
  split
  case isTrue hd => rw [hd]
  case isFalse => rfl

/-- On a running machine a pending byte requests service (43 R140). -/
theorem rxRequest_of_pending {ch : Chan} {s : State} (hrun : s.halt = false) (hflag : (s.chan ch).rxflag = true) :
    rxRequest s ch = true := (rxRequest_iff s ch).2 ⟨Bool.eq_false_iff.1 hrun, hflag⟩

/-- RXVEC skips a channel that makes no receive request (43 R142). -/
theorem dispatchIfPending_skip {ch : Chan} {s : State} (r : Response) (hreq : ¬ rxRequest s ch = true) :
    dispatchIfPending ch s r = .ok (s, r) := if_neg hreq

/-- XMIT on a full queue takes QueueOverflow (41 R122, R123). -/
theorem exec_xmit_full {ch : Chan} {s : State} (b : Byte) (hrun : s.halt = false)
    (hfull : (s.chan ch).count.toNat = s.params.C) :
    exec (.xmit ch b) s = .next ((raiseQueueOverflow ch s).respond .overflow) := by
  calc exec (.xmit ch b) s
      = finish (.ok (xmit ch b s)) := unlessHalted_running s _ hrun
    _ = .next ((raiseQueueOverflow ch s).respond .overflow) := by rw [xmit_full ch b s hfull, finish]

variable {src : Chan} {s u : State} (hrun : s.halt = false) (hflag : (s.chan src).rxflag = true)
  (hread : u = s.setChan src { s.chan src with rxflag := false })
  (hfull : (s.chan (s.params.route src)).count.toNat = s.params.C)
include hflag hread hfull

/-- A received byte whose routed queue is full is read and then lost to QueueOverflow: reading the receive register
makes no room. -/
theorem dispatch_full : dispatch src s = .ok (raiseQueueOverflow (s.params.route src) u, .overflow) := by
  have hcount : (u.chan (s.params.route src)).count = (s.chan (s.params.route src)).count := by
    rw [hread, chan_setChan]
    split
    case isTrue hroute => rw [hroute]
    case isFalse => rfl
  have hparams : u.params = s.params := hread ▸ setChan_params s src _
  rw [dispatch_pending src s hflag, ← hread, xmit_full _ _ _ (by rw [hcount, hparams, hfull])]

include hrun

/-- RXD routed to a full queue takes QueueOverflow after the read (43 R141). -/
theorem exec_rxd_full :
    exec (.rxd src) s = .next ((raiseQueueOverflow (s.params.route src) u).respond .overflow) := by
  calc exec (.rxd src) s
      = finish (dispatch src s) :=
        (unlessHalted_running s _ hrun).trans (if_pos (rxRequest_of_pending hrun hflag))
    _ = _ := by rw [dispatch_full hflag hread hfull, finish]

/-- RXVEC's body for a pending channel routed to a full queue turns the response so far into OVERFLOW. -/
theorem dispatchIfPending_full (r : Response) :
    dispatchIfPending src s r = .ok (raiseQueueOverflow (s.params.route src) u, .overflow) := by
  simp only [dispatchIfPending, rxRequest_of_pending hrun hflag, dispatch_full hflag hread hfull, if_true]

/-- RXVEC with one channel pending, routed to a full queue: the other channel is skipped, before the overflow when it
is channel 0 and after it when it is channel 1 (43 R142). -/
theorem serveReceivers_full (hother : (s.chan src.other).rxflag = false) :
    serveReceivers s = .ok (raiseQueueOverflow (s.params.route src) u, .overflow) := by
  have hserved := dispatchIfPending_full hrun hflag hread hfull .done
  cases src with
  | c0 =>
    have hskip : ¬ rxRequest (raiseQueueOverflow (s.params.route .c0) u) .c1 = true := fun hreq => by
      have hpending := ((rxRequest_iff _ _).1 hreq).2
      rw [rxflag_raiseQueueOverflow, hread, chan_c1_setChan_c0] at hpending
      exact Bool.eq_false_iff.1 hother hpending
    simp only [serveReceivers, hserved, dispatchIfPending_skip _ hskip]
  | c1 =>
    have hskip : ¬ rxRequest s .c0 = true := fun hreq =>
      Bool.eq_false_iff.1 hother ((rxRequest_iff s .c0).1 hreq).2
    simp only [serveReceivers, dispatchIfPending_skip _ hskip, hserved]

/-- With one channel pending, routed to a full queue, RXVEC does what RXD does. -/
theorem exec_rxvec_full (hother : (s.chan src.other).rxflag = false) : exec .rxvec s = exec (.rxd src) s := by
  have hirq : irqRx s = true := (irqRx_iff s).2 ⟨Bool.eq_false_iff.1 hrun, by cases src <;> simp [hflag]⟩
  calc exec .rxvec s
      = finish (serveReceivers s) := (unlessHalted_running s _ hrun).trans (if_pos hirq)
    _ = .next ((raiseQueueOverflow (s.params.route src) u).respond .overflow) := by
        rw [serveReceivers_full hrun hflag hread hfull hother, finish]
    _ = exec (.rxd src) s := (exec_rxd_full hrun hflag hread hfull).symm

end overflow

/-- Settles O20: each entry leaves `raiseQueueOverflow`, which in FAILSTOP mode sets `ovf` and `halt`. -/
theorem overflowHaltsInFailstop : Obligations.OverflowHaltsInFailstop := by
  refine fun ch b s hrun hmode => ⟨fun hfull => ?xmit, fun src u hflag hroute hread hfull => ?receive⟩
  case xmit => rw [exec_xmit_full b hrun hfull, raiseQueueOverflow_failstop ch s hmode]
  case receive =>
    subst hroute
    have hmode' : u.params.ovfMode = .failstop := by rw [hread, setChan_params, hmode]
    refine ⟨?rxd, exec_rxvec_full hrun hflag hread hfull⟩
    rw [exec_rxd_full hrun hflag hread hfull, raiseQueueOverflow_failstop _ u hmode']

/-- Settles O21: each entry leaves `raiseQueueOverflow`, which in REPORT mode sets `ovf` alone. -/
theorem overflowIsReported : Obligations.OverflowIsReported := by
  refine fun ch b s hrun hmode => ⟨fun hfull => ?xmit, fun src u hflag hroute hread hfull => ?receive⟩
  case xmit => rw [exec_xmit_full b hrun hfull, raiseQueueOverflow_report ch s hmode]
  case receive =>
    subst hroute
    have hmode' : u.params.ovfMode = .report := by rw [hread, setChan_params, hmode]
    refine ⟨?rxd, exec_rxvec_full hrun hflag hread hfull⟩
    rw [exec_rxd_full hrun hflag hread hfull, raiseQueueOverflow_report _ u hmode']

end Sys2Proof.Machine

/-! The build contract of a configuration (70 R206): what a requested capacity gives, within the contract and
outside it. -/

namespace Sys2Proof

section buildContract
variable (r : RawParams)

theorem RawParams.wf_iff : r.wf = true ↔ 1 ≤ r.capacity ∧ r.capacity < 2 ^ 8 := by
  rw [RawParams.wf, Bool.and_eq_true, decide_eq_true_iff, decide_eq_true_iff, Config.indexWidth]

/-- Within the contract the request is built. The index held is `capacity - 1`, which does not wrap below zero
because the capacity is at least 1, so `C` is the capacity asked for. -/
theorem RawParams.build?_of_wf (h : r.wf = true) : ∃ p, r.build? = some p ∧ p.C = r.capacity := by
  have hcontract := r.wf_iff.1 h
  exact ⟨_, dif_pos hcontract, Nat.sub_add_cancel hcontract.1⟩

/-- Outside the contract the model refuses the configuration (00_scope R8). -/
theorem RawParams.build?_of_not_wf (h : ¬ r.wf = true) : r.build? = none :=
  dif_neg fun hcontract => h (r.wf_iff.2 hcontract)

variable {r}

theorem RawParams.wf_of_build? {p : Params} (h : r.build? = some p) : r.wf = true := by
  by_contra hwf
  rw [r.build?_of_not_wf hwf] at h
  contradiction

theorem RawParams.C_of_build? {p : Params} (h : r.build? = some p) : p.C = r.capacity := by
  obtain ⟨q, hq, hcapacity⟩ := r.build?_of_wf (wf_of_build? h)
  rwa [Option.some.inj (h.symm.trans hq)]

end buildContract

/-- Settles O55: a request is built within the contract and refused outside it; the bound on every `Params` is that of
its highest cell index. -/
theorem buildContractIsEnforced : Obligations.BuildContractIsEnforced := by
  refine ⟨fun r => ⟨fun hwf => ?built, ?inContract⟩, fun r p => RawParams.C_of_build?, fun p => ?bounds⟩
  case built =>
    obtain ⟨p, hp, -⟩ := r.build?_of_wf hwf
    exact ⟨p, hp⟩
  case inContract =>
    rintro ⟨p, hp⟩
    exact RawParams.wf_of_build? hp
  case bounds => exact ⟨Machine.Params_C_pos p, Nat.lt_succ_of_le (Machine.Params_C_le p)⟩

end Sys2Proof

/-! A channel on its own: what the operations do to it, its contents and its invariant. A channel's queue depends on its
own registers and on the capacity alone, so these facts do not mention the machine. -/

namespace Sys2Proof.Machine

/-- The channel with a byte queued at the insert position (40 R101). -/
def Channel.enqueue (C : Nat) (b : Byte) (x : Channel) : Channel :=
  { x with
    storage := Storage.write x.storage ((x.head.toNat + x.count.toNat) % C) b
    count := BitVec.ofNat 8 (x.count.toNat + 1) }

/-- The channel after an accepted transmission: the byte queued, and armed when the queue was empty (41 R124). -/
def Channel.transmit (C : Nat) (b : Byte) (x : Channel) : Channel :=
  { x.enqueue C b with txIe := if x.count.toNat = 0 then true else x.txIe }

/-- The channel with the byte at `head` taken (40 R102). -/
def Channel.dequeue (C : Nat) (x : Channel) : Channel :=
  { x with
    head := BitVec.ofNat 8 ((x.head.toNat + 1) % C)
    count := BitVec.ofNat 8 (x.count.toNat - 1) }

/-- The channel with the byte at `head`, `v`, handed to the peripheral (42 R131, R133). -/
def Channel.send (C : Nat) (v : Byte) (x : Channel) : Channel :=
  { x.dequeue C with txflag := false, txlog := x.txlog ++ [v] }

/-- The byte at `head`. -/
def Channel.front (x : Channel) : Option Byte := Storage.read x.storage x.head.toNat

/-- The queue's contents, oldest first; `contents_eq` ties it to `contents`. -/
def Channel.contents (C : Nat) (x : Channel) : List (Option Byte) :=
  (List.range x.count.toNat).map (fun i => Storage.read x.storage ((x.head.toNat + i) % C))

/-- What was transmitted, then what is queued; `history_eq` ties it to `history`. -/
def Channel.history (C : Nat) (x : Channel) : List (Option Byte) := x.txlog.map some ++ x.contents C

/-- The invariant of a channel; `channelInv_iff` ties it to `ChannelInv`. -/
structure Channel.Ok (C : Nat) (x : Channel) : Prop where
  canonical : Memory.wf x.storage = true
  cells_exist : Storage.within C x.storage = true
  count_le : x.count.toNat ≤ C
  head_lt : x.head.toNat < C
  contents_written : ∀ o ∈ x.contents C, o.isSome = true
  busy_logged : x.txflag = false → x.txlog ≠ []

theorem contents_eq (s : State) (ch : Chan) : contents s ch = (s.chan ch).contents s.params.C := rfl

theorem history_eq (s : State) (ch : Chan) : history s ch = (s.chan ch).history s.params.C := rfl

theorem channelInv_iff (s : State) (ch : Chan) : ChannelInv s ch ↔ (s.chan ch).Ok s.params.C := by
  have hwindow : (∀ i < (s.chan ch).count.toNat,
      (cellAt s ch (((s.chan ch).head.toNat + i) % s.params.C)).isSome = true) ↔
      ∀ o ∈ (s.chan ch).contents s.params.C, o.isSome = true := by
    simp only [Channel.contents, List.mem_map, List.mem_range, forall_exists_index, and_imp,
      forall_apply_eq_imp_iff₂, cellAt]
  constructor
  · rintro ⟨hcanon, hcells, hcount, hhead, hwritten, hbusy⟩
    exact ⟨hcanon, hcells, hcount, hhead, hwindow.1 hwritten, hbusy⟩
  · rintro ⟨hcanon, hcells, hcount, hhead, hwritten, hbusy⟩
    exact ⟨hcanon, hcells, hcount, hhead, hwindow.2 hwritten, hbusy⟩

theorem StateInv.ok {s : State} (h : StateInv s) (ch : Chan) : (s.chan ch).Ok s.params.C :=
  (channelInv_iff s ch).1 (h.channel ch)

section fields
variable (C : Nat) (b v : Byte) (x : Channel)

@[simp] theorem Channel.enqueue_head : (x.enqueue C b).head = x.head := rfl
@[simp] theorem Channel.enqueue_txIe : (x.enqueue C b).txIe = x.txIe := rfl
@[simp] theorem Channel.enqueue_txflag : (x.enqueue C b).txflag = x.txflag := rfl
@[simp] theorem Channel.enqueue_rxflag : (x.enqueue C b).rxflag = x.rxflag := rfl
@[simp] theorem Channel.enqueue_rxbuf : (x.enqueue C b).rxbuf = x.rxbuf := rfl
@[simp] theorem Channel.enqueue_ovf : (x.enqueue C b).ovf = x.ovf := rfl
@[simp] theorem Channel.enqueue_txlog : (x.enqueue C b).txlog = x.txlog := rfl

@[simp] theorem Channel.transmit_storage : (x.transmit C b).storage = (x.enqueue C b).storage := rfl
@[simp] theorem Channel.transmit_count : (x.transmit C b).count = (x.enqueue C b).count := rfl
@[simp] theorem Channel.transmit_head : (x.transmit C b).head = x.head := rfl
@[simp] theorem Channel.transmit_txIe :
    (x.transmit C b).txIe = if x.count.toNat = 0 then true else x.txIe := rfl
@[simp] theorem Channel.transmit_txflag : (x.transmit C b).txflag = x.txflag := rfl
@[simp] theorem Channel.transmit_rxflag : (x.transmit C b).rxflag = x.rxflag := rfl
@[simp] theorem Channel.transmit_rxbuf : (x.transmit C b).rxbuf = x.rxbuf := rfl
@[simp] theorem Channel.transmit_ovf : (x.transmit C b).ovf = x.ovf := rfl
@[simp] theorem Channel.transmit_txlog : (x.transmit C b).txlog = x.txlog := rfl
@[simp] theorem Channel.transmit_contents : (x.transmit C b).contents C = (x.enqueue C b).contents C := rfl

@[simp] theorem Channel.dequeue_storage : (x.dequeue C).storage = x.storage := rfl
@[simp] theorem Channel.dequeue_txIe : (x.dequeue C).txIe = x.txIe := rfl
@[simp] theorem Channel.dequeue_txflag : (x.dequeue C).txflag = x.txflag := rfl
@[simp] theorem Channel.dequeue_rxflag : (x.dequeue C).rxflag = x.rxflag := rfl
@[simp] theorem Channel.dequeue_rxbuf : (x.dequeue C).rxbuf = x.rxbuf := rfl
@[simp] theorem Channel.dequeue_ovf : (x.dequeue C).ovf = x.ovf := rfl
@[simp] theorem Channel.dequeue_txlog : (x.dequeue C).txlog = x.txlog := rfl

@[simp] theorem Channel.send_storage : (x.send C v).storage = x.storage := rfl
@[simp] theorem Channel.send_head : (x.send C v).head = (x.dequeue C).head := rfl
@[simp] theorem Channel.send_count : (x.send C v).count = (x.dequeue C).count := rfl
@[simp] theorem Channel.send_txIe : (x.send C v).txIe = x.txIe := rfl
@[simp] theorem Channel.send_txflag : (x.send C v).txflag = false := rfl
@[simp] theorem Channel.send_rxflag : (x.send C v).rxflag = x.rxflag := rfl
@[simp] theorem Channel.send_rxbuf : (x.send C v).rxbuf = x.rxbuf := rfl
@[simp] theorem Channel.send_ovf : (x.send C v).ovf = x.ovf := rfl
@[simp] theorem Channel.send_txlog : (x.send C v).txlog = x.txlog ++ [v] := rfl
@[simp] theorem Channel.send_contents : (x.send C v).contents C = (x.dequeue C).contents C := rfl

end fields

section queue
variable {C : Nat} {x : Channel}

@[simp] theorem Channel.length_contents (C : Nat) (x : Channel) : (x.contents C).length = x.count.toNat := by
  simp [Channel.contents]

/-- The capacity fits `count`, so a byte queued where there is room does not wrap it (40 R105). -/
theorem Channel.enqueue_count (hC : C ≤ 255) (hroom : x.count.toNat < C) (b : Byte) :
    (x.enqueue C b).count.toNat = x.count.toNat + 1 := by
  simp only [Channel.enqueue, BitVec.toNat_ofNat]
  omega

theorem Channel.dequeue_count (C : Nat) (x : Channel) : (x.dequeue C).count.toNat = x.count.toNat - 1 := by
  have := x.count.isLt
  simp only [Channel.dequeue, BitVec.toNat_ofNat]
  omega

theorem Channel.dequeue_head (hC : C ≤ 255) (hpos : 0 < C) :
    (x.dequeue C).head.toNat = (x.head.toNat + 1) % C := by
  have := Nat.mod_lt (x.head.toNat + 1) hpos
  simp only [Channel.dequeue, BitVec.toNat_ofNat]
  omega

/-- Two offsets below the capacity from one `head` are two cells. -/
theorem offset_injective {h i j : Nat} (hi : i < C) (hj : j < C) (e : (h + i) % C = (h + j) % C) : i = j := by
  have hmod : i ≡ j [MOD C] := Nat.ModEq.add_left_cancel' h e
  rwa [Nat.ModEq, Nat.mod_eq_of_lt hi, Nat.mod_eq_of_lt hj] at hmod

/-- Queuing a byte appends it to the contents: its cell is none of those in use (40 R108 item 1). -/
theorem Channel.contents_enqueue (hC : C ≤ 255) (hroom : x.count.toNat < C) (b : Byte) :
    (x.enqueue C b).contents C = x.contents C ++ [some b] := by
  rw [Channel.contents, Channel.enqueue_count hC hroom, List.range_succ, List.map_append]
  congr 1
  · refine List.map_congr_left fun i hi => read_write_other _ _ _ b fun e => ?_
    have hlt : i < x.count.toNat := List.mem_range.1 hi
    exact hlt.ne (offset_injective (hlt.trans hroom) hroom e)
  · simp [Channel.enqueue]

/-- Taking a byte takes the oldest one off the contents (40 R108 item 1). -/
theorem Channel.contents_dequeue (hC : C ≤ 255) (hhead : x.head.toNat < C) (hcount : x.count.toNat ≠ 0) :
    x.contents C = x.front :: (x.dequeue C).contents C := by
  obtain ⟨n, hn⟩ := Nat.exists_eq_succ_of_ne_zero hcount
  have hpos : 0 < C := Nat.zero_lt_of_lt hhead
  simp only [Channel.contents, Channel.dequeue_count, Channel.dequeue_head hC hpos, hn, Nat.succ_eq_add_one,
    List.range_succ_eq_map, List.map_cons, List.map_map, Nat.add_zero, Nat.mod_eq_of_lt hhead, Nat.add_sub_cancel,
    Channel.front, Channel.dequeue_storage]
  congr 1
  refine List.map_congr_left fun i _ => ?_
  rw [Function.comp_apply, Nat.mod_add_mod, Nat.succ_eq_add_one, Nat.add_assoc, Nat.add_comm 1 i]

theorem Channel.contents_eq_nil_iff (C : Nat) (x : Channel) : x.contents C = [] ↔ x.count.toNat = 0 := by
  rw [← List.length_eq_zero_iff, Channel.length_contents]

/-- A queued byte is appended to the history. -/
theorem Channel.history_enqueue (hC : C ≤ 255) (hroom : x.count.toNat < C) (b : Byte) :
    (x.enqueue C b).history C = x.history C ++ [some b] := by
  simp only [Channel.history, Channel.enqueue_txlog, Channel.contents_enqueue hC hroom, List.append_assoc]

theorem Channel.history_transmit (hC : C ≤ 255) (hroom : x.count.toNat < C) (b : Byte) :
    (x.transmit C b).history C = x.history C ++ [some b] := Channel.history_enqueue hC hroom b

/-- Handing the oldest byte to the peripheral moves it from the queue to the log, so the history stays. -/
theorem Channel.history_send (hC : C ≤ 255) (hhead : x.head.toNat < C) (hcount : x.count.toNat ≠ 0) {v : Byte}
    (hfront : x.front = some v) : (x.send C v).history C = x.history C := by
  simp only [Channel.history, Channel.send_txlog, Channel.send_contents, Channel.contents_dequeue hC hhead hcount,
    hfront, List.map_append, List.map_cons, List.map_nil, List.append_assoc, List.cons_append, List.nil_append]

/-- A queue that holds a byte has a written cell at `head`. -/
theorem Channel.Ok.exists_front (hC : C ≤ 255) (h : x.Ok C) (hcount : x.count.toNat ≠ 0) : ∃ v, x.front = some v := by
  have hmem : x.front ∈ x.contents C := by simp [Channel.contents_dequeue hC h.head_lt hcount]
  exact Option.isSome_iff_exists.1 (h.contents_written _ hmem)

theorem Channel.Ok.lt_of_ne (h : x.Ok C) (hroom : x.count.toNat ≠ C) : x.count.toNat < C :=
  lt_of_le_of_ne h.count_le hroom

end queue

section ok
variable {C : Nat} {x : Channel} (hC : C ≤ 255) (h : x.Ok C)
include h

/-- The invariant reads the queue, the completion flag and the log alone. -/
theorem Channel.Ok.of_queue {y : Channel} (hstorage : y.storage = x.storage) (hhead : y.head = x.head)
    (hcount : y.count = x.count) (hbusy : y.txflag = false → y.txlog ≠ []) : y.Ok C := by
  have hcontents : y.contents C = x.contents C := by simp only [Channel.contents, hstorage, hhead, hcount]
  exact ⟨hstorage ▸ h.canonical, hstorage ▸ h.cells_exist, hcount ▸ h.count_le, hhead ▸ h.head_lt,
    hcontents ▸ h.contents_written, hbusy⟩

include hC

theorem Channel.Ok.enqueue (hroom : x.count.toNat < C) (b : Byte) : (x.enqueue C b).Ok C := by
  refine ⟨write_wf _ _ _ h.canonical, write_within _ _ _ _ (Nat.mod_lt _ (by omega)) h.cells_exist, ?_, h.head_lt, ?_,
    h.busy_logged⟩
  · rw [Channel.enqueue_count hC hroom]
    exact hroom
  · rw [Channel.contents_enqueue hC hroom]
    simpa [or_imp, forall_and] using h.contents_written

theorem Channel.Ok.transmit (hroom : x.count.toNat < C) (b : Byte) : (x.transmit C b).Ok C :=
  (h.enqueue hC hroom b).of_queue rfl rfl rfl h.busy_logged

theorem Channel.Ok.dequeue (hcount : x.count.toNat ≠ 0) : (x.dequeue C).Ok C := by
  have hpos : 0 < C := Nat.zero_lt_of_lt h.head_lt
  refine ⟨h.canonical, h.cells_exist, ?_, ?_, fun o ho => h.contents_written o ?_, h.busy_logged⟩
  · rw [Channel.dequeue_count]
    exact (Nat.sub_le _ _).trans h.count_le
  · rw [Channel.dequeue_head hC hpos]
    exact Nat.mod_lt _ hpos
  · rw [Channel.contents_dequeue hC h.head_lt hcount]
    exact List.mem_cons_of_mem _ ho

theorem Channel.Ok.send (hcount : x.count.toNat ≠ 0) (v : Byte) : (x.send C v).Ok C :=
  (h.dequeue hC hcount).of_queue rfl rfl rfl (by simp)

end ok

/-- A channel after reset holds nothing and is ready (10_state R40). -/
theorem Channel.ok_resetWith {C : Nat} (hpos : 0 < C) (rx : Byte) : (Channel.resetWith rx).Ok C where
  canonical := rfl
  cells_exist := rfl
  count_le := Nat.zero_le C
  head_lt := hpos
  contents_written := by simp [Channel.contents, Channel.resetWith]
  busy_logged := by simp [Channel.resetWith, Config.txflagReset]

end Sys2Proof.Machine

/-! What an operation other than RESET can do, said once: to each channel a sequence of the effects listed in
`ChannelEffect`, to `halt` what an overflow does, and to the surroundings nothing. -/

namespace Sys2Proof.Machine

theorem qreg_eq_zero_iff (c : QReg) : c = 0 ↔ c.toNat = 0 := by bv_omega

/-- An XMIT with room, on the channel (41 R121). -/
theorem xmit_eq_transmit (ch : Chan) (b : Byte) {s : State} (h : (s.chan ch).count.toNat ≠ s.params.C) :
    xmit ch b s = (s.setChan ch ((s.chan ch).transmit s.params.C b), .accept) := by
  rw [xmit_room ch b s h]
  simp only [qreg_eq_zero_iff]
  rfl

section projections
variable {α : Type} (f : Channel → α) {s t : State} {c : Chan} {b : Byte} {r : Response}

/-- What the replaced channel has in common with the one before it, every channel keeps. -/
theorem chan_setChan_apply {x : Channel} (h : f x = f (s.chan c)) (d : Chan) :
    f ((s.setChan c x).chan d) = f (s.chan d) := by
  rw [chan_setChan]
  split
  case isTrue hd => rw [hd, h]
  case isFalse => rfl

theorem read_apply (h : ∀ x : Channel, f { x with rxflag := false } = f x) (c d : Chan) (s : State) :
    f ((s.setChan c { s.chan c with rxflag := false }).chan d) = f (s.chan d) := chan_setChan_apply f (h _) d

theorem raiseQueueOverflow_apply (h : ∀ x : Channel, f { x with ovf := true } = f x) (c d : Chan) (s : State) :
    f ((raiseQueueOverflow c s).chan d) = f (s.chan d) := by
  rw [raiseQueueOverflow_eq, setHalt_chan]
  exact chan_setChan_apply f (h _) d

/-- What neither an overflow nor an accepted byte changes of a channel, XMIT keeps of every channel. -/
theorem xmit_apply (hovf : ∀ x : Channel, f { x with ovf := true } = f x)
    (htx : ∀ (x : Channel) (C : Nat) (b : Byte), f (x.transmit C b) = f x) (hx : xmit c b s = (t, r)) (d : Chan) :
    f (t.chan d) = f (s.chan d) := by
  by_cases hfull : (s.chan c).count.toNat = s.params.C
  · rw [xmit_full c b s hfull] at hx
    cases hx
    exact raiseQueueOverflow_apply f hovf c d s
  · rw [xmit_eq_transmit c b hfull] at hx
    cases hx
    exact chan_setChan_apply f (htx _ _ _) d

/-- A receive handler clears the pending flag of its channel and leaves that of the other. -/
theorem receive_rxflag {ch : Chan} (hx : xmit c b (s.setChan ch { s.chan ch with rxflag := false }) = (t, r)) :
    (t.chan ch).rxflag = false ∧ (t.chan ch.other).rxflag = (s.chan ch.other).rxflag := by
  have hkeep := xmit_apply Channel.rxflag (fun _ => rfl) (fun _ _ _ => rfl) hx
  exact ⟨by simpa using hkeep ch, by simpa using hkeep ch.other⟩

/-- A receive handler writes no receive register. -/
theorem receive_rxbuf {ch : Chan} (hx : xmit c b (s.setChan ch { s.chan ch with rxflag := false }) = (t, r))
    (d : Chan) : (t.chan d).rxbuf = (s.chan d).rxbuf :=
  (xmit_apply Channel.rxbuf (fun _ => rfl) (fun _ _ _ => rfl) hx d).trans (read_apply Channel.rxbuf (fun _ => rfl) ch d s)

end projections

/-- A consumer invocation on a ready peripheral, on the channel (42 R131). -/
def Channel.Consumed (C : Nat) (x : Channel) (r : Response) (y : Channel) : Prop :=
  (x.count.toNat = 0 ∧ r = .none ∧ y = { x with txIe := false }) ∨
  (∃ v, x.count.toNat ≠ 0 ∧ x.head.toNat < C ∧ x.front = some v ∧ r = .some v ∧ y = x.send C v)

/-- A consumer invocation on a ready peripheral acts on its channel alone. -/
theorem consume_consumed {ch : Chan} {s t : State} {r : Response} (hf : (s.chan ch).txflag = true)
    (h : consume ch s = .ok (t, r)) :
    ∃ y, (s.chan ch).Consumed s.params.C r y ∧ t = s.setChan ch y := by
  rcases consume_cases hf h with ⟨hcount, rfl, rfl⟩ | ⟨v, hcount, hhead, hfront, rfl, rfl⟩
  · exact ⟨_, .inl ⟨(qreg_eq_zero_iff _).1 hcount, rfl, rfl⟩, rfl⟩
  · exact ⟨_, .inr ⟨v, fun h0 => hcount ((qreg_eq_zero_iff _).2 h0), hhead, hfront, rfl, rfl⟩, rfl⟩

/-- The operation can transmit on the channel: XMIT on it, RXD routed to it, or RXVEC with a pending byte routed to
it. -/
def Transmits (i : Instr) (s : State) (ch : Chan) : Prop :=
  (∃ b, i = .xmit ch b) ∨ (∃ src, i = .rxd src ∧ s.params.route src = ch) ∨
  (i = .rxvec ∧ ∃ src, (s.chan src).rxflag = true ∧ s.params.route src = ch)

/-- The operation can invoke the channel's consumer. -/
def Serves (i : Instr) (ch : Chan) : Prop := i = .txc ch ∨ i = .txvec

/-- The operation can read the channel's receive register. -/
def Receives (i : Instr) (ch : Chan) : Prop := i = .rxd ch ∨ i = .rxvec

/-- The elementary effects of operation `i`, begun in machine `s`, on channel `ch`. -/
inductive ChannelEffect (i : Instr) (s : State) (ch : Chan) : Channel → Channel → Prop
  | push {b : Byte} {x : Channel} (hi : i = .push ch b) (hroom : x.count.toNat ≠ s.params.C) :
      ChannelEffect i s ch x (x.enqueue s.params.C b)
  | transmit {b : Byte} {x : Channel} (hi : Transmits i s ch) (hroom : x.count.toNat ≠ s.params.C) :
      ChannelEffect i s ch x (x.transmit s.params.C b)
  | overflow {x : Channel} (hi : Transmits i s ch) (hfull : x.count.toNat = s.params.C) :
      ChannelEffect i s ch x { x with ovf := true }
  | pop {x : Channel} (hi : i = .pop ch) (hcount : x.count.toNat ≠ 0) (hhead : x.head.toNat < s.params.C) :
      ChannelEffect i s ch x (x.dequeue s.params.C)
  | send {v : Byte} {x : Channel} (hi : Serves i ch) (hready : x.txflag = true) (hcount : x.count.toNat ≠ 0)
      (hhead : x.head.toNat < s.params.C) (hfront : x.front = some v) :
      ChannelEffect i s ch x (x.send s.params.C v)
  | disarm {x : Channel} (hi : Serves i ch) (hready : x.txflag = true) (hcount : x.count.toNat = 0) :
      ChannelEffect i s ch x { x with txIe := false }
  | read {x : Channel} (hi : Receives i ch) (hflag : x.rxflag = true) :
      ChannelEffect i s ch x { x with rxflag := false }
  | complete {x : Channel} (hi : i = .txdone ch) : ChannelEffect i s ch x { x with txflag := true }
  | arrive {b kept : Byte} {x : Channel} (hi : i = .rxarr ch b) (hkept : kept = b ∨ x.rxflag = true ∧ kept = x.rxbuf) :
      ChannelEffect i s ch x { x with rxbuf := kept, rxflag := true }

/-- A sequence of effects on the channel. -/
abbrev ChannelEffects (i : Instr) (s : State) (ch : Chan) : Channel → Channel → Prop :=
  Relation.ReflTransGen (ChannelEffect i s ch)

/-- What every effect keeps, a sequence of them keeps. -/
theorem ChannelEffects.preserve {i : Instr} {s : State} {ch : Chan} {P : Channel → Prop}
    (hP : ∀ x y, ChannelEffect i s ch x y → P x → P y) {x y : Channel} (h : ChannelEffects i s ch x y) (hx : P x) :
    P y := by
  induction h with
  | refl => exact hx
  | tail _ hstep ih => exact hP _ _ hstep ih

/-- Only RESET clears `ovf` (10_state R27). -/
theorem ChannelEffects.ovf {i : Instr} {s : State} {ch : Chan} {x y : Channel} (h : ChannelEffects i s ch x y)
    (hx : x.ovf = true) : y.ovf = true :=
  h.preserve (P := fun z => z.ovf = true) (fun _ _ he hz => by
    cases he with
    | overflow => rfl
    | _ => exact hz) hx

/-- What operation `i` has done to machine `s` when it has reached `t`. -/
structure Effects (i : Instr) (s t : State) : Prop where
  surroundings : SameSurroundings s t
  channel : ∀ ch, ChannelEffects i s ch (s.chan ch) (t.chan ch)
  halt : t.halt = true → s.halt = true ∨ s.params.ovfMode = .failstop ∧ ∃ ch, (t.chan ch).ovf = true
  runs : (∀ ch, ¬ Transmits i s ch) → t.halt = s.halt
  stays : s.halt = true → t.halt = true

namespace Effects
variable {i : Instr} {s t u : State} {ch : Chan} {b : Byte} {r : Response}

theorem refl (i : Instr) (s : State) : Effects i s s :=
  ⟨⟨rfl, rfl, rfl, rfl⟩, fun _ => .refl, .inl, fun _ => rfl, id⟩

theorem params (h : Effects i s t) : t.params = s.params := h.surroundings.1.symm

theorem respond (h : Effects i s t) (r : Response) : Effects i s (t.respond r) := by
  obtain ⟨hsurr, hchan, hhalt, hruns, hstays⟩ := h
  exact ⟨hsurr, by simpa using hchan, by simpa using hhalt, hruns, hstays⟩

theorem setFree (h : Effects i s t) (n : Nat) : Effects i s (t.setFree n) := by
  obtain ⟨hsurr, hchan, hhalt, hruns, hstays⟩ := h
  exact ⟨hsurr, by simpa using hchan, by simpa using hhalt, hruns, hstays⟩

/-- One more effect, on one channel. -/
theorem setChan (h : Effects i s t) {x : Channel} (hx : ChannelEffect i s ch (t.chan ch) x) :
    Effects i s (t.setChan ch x) := by
  have hchan (d : Chan) : ChannelEffects i s d (t.chan d) ((t.setChan ch x).chan d) := by
    rcases eq_or_ne d ch with rfl | hne
    · rw [chan_setChan_same]
      exact .single hx
    · rw [chan_setChan_ne _ _ _ _ hne]
  refine ⟨?_, fun d => (h.channel d).trans (hchan d), fun hh => ?_, ?_, ?_⟩
  · simpa [SameSurroundings] using h.surroundings
  · exact (h.halt (by simpa using hh)).imp_right fun ⟨hmode, d, hd⟩ => ⟨hmode, d, (hchan d).ovf hd⟩
  · simpa using h.runs
  · simpa using h.stays

/-- Taking QueueOverflow on a full channel (60 R170, R171). -/
theorem overflow (h : Effects i s t) (hi : Transmits i s ch) (hfull : (t.chan ch).count.toNat = s.params.C) :
    Effects i s (raiseQueueOverflow ch t) := by
  have hset := h.setChan (ChannelEffect.overflow hi hfull)
  rw [raiseQueueOverflow_eq, h.params]
  obtain ⟨hsurr, hchan, hhalt, hruns, hstays⟩ := hset
  refine ⟨hsurr, by simpa using hchan, fun hh => ?_, fun hno => absurd hi (hno ch), fun hs => ?_⟩
  · simp only [setHalt_halt, Bool.or_eq_true, decide_eq_true_iff] at hh
    rcases hh with hh | hmode
    · simpa using hhalt (by simpa using hh)
    · exact .inr ⟨hmode, ch, by simp⟩
  · simp [h.stays hs]

theorem xmit (h : Effects i s t) (hi : Transmits i s ch) (hx : xmit ch b t = (u, r)) : Effects i s u := by
  by_cases hfull : (t.chan ch).count.toNat = t.params.C
  · rw [xmit_full ch b t hfull] at hx
    cases hx
    exact h.overflow hi (h.params ▸ hfull)
  · rw [xmit_eq_transmit ch b hfull, h.params] at hx
    cases hx
    exact h.setChan (.transmit hi (h.params ▸ hfull))

theorem consume (h : Effects i s t) (hi : Serves i ch) (hready : (t.chan ch).txflag = true)
    (hx : consume ch t = .ok (u, r)) : Effects i s u := by
  obtain ⟨y, hy, rfl⟩ := consume_consumed hready hx
  rw [h.params] at hy
  rcases hy with ⟨hcount, -, rfl⟩ | ⟨v, hcount, hhead, hfront, -, rfl⟩
  · exact h.setChan (.disarm hi hready hcount)
  · exact h.setChan (.send hi hready hcount hhead hfront)

theorem consumeIfFlagged (h : Effects i s t) (hi : Serves i ch) (hx : consumeIfFlagged ch t = .ok u) :
    Effects i s u := by
  rcases consumeIfFlagged_cases hx with ⟨-, rfl⟩ | ⟨hready, r, hr⟩
  · exact h
  · exact h.consume hi hready hr

/-- The acknowledged read of the receive register and the transmission it feeds (43 R141). -/
theorem receive (h : Effects i s t) (hr : Receives i ch) (hflag : (t.chan ch).rxflag = true)
    (hi : Transmits i s (s.params.route ch))
    (hx : Machine.xmit (t.params.route ch) b (t.setChan ch { t.chan ch with rxflag := false }) = (u, r)) :
    Effects i s u :=
  (h.setChan (.read hr hflag)).xmit hi (h.params ▸ hx)

/-- RXVEC's body for one channel: it transmits when the byte was pending before the handler began. -/
theorem dispatchIfPending {q : Response} (h : Effects .rxvec s t)
    (hpending : (t.chan ch).rxflag = true → (s.chan ch).rxflag = true)
    (hx : dispatchIfPending ch t q = .ok (u, r)) : Effects .rxvec s u := by
  rcases dispatchIfPending_cases hx with ⟨-, rfl, -⟩ | ⟨-, hflag, a, ha, -⟩
  · exact h
  · exact h.receive (.inr rfl) hflag (.inr (.inr ⟨rfl, ch, hpending hflag, rfl⟩)) ha

end Effects

/-- No effect of RXVEC makes a byte pending. -/
theorem ChannelEffects.rxflag_of_rxvec {s : State} {ch : Chan} {x y : Channel} (h : ChannelEffects .rxvec s ch x y)
    (hy : y.rxflag = true) : x.rxflag = true := by
  by_contra hx
  have hkeep := h.preserve (P := fun z => ¬ z.rxflag = true)
    (fun _ _ he hz => by
      cases he with
      | arrive hi => cases hi
      | read => exact Bool.false_ne_true
      | _ => exact hz) hx
  exact hkeep hy

/-- Every operation but RESET does what `Effects` lists. -/
theorem exec_effects {i : Instr} {s t : State} (hi : i ≠ .reset) (h : exec i s = .next t) : Effects i s t := by
  have h0 : Effects i s s := .refl i s
  cases i with
  | nop => rcases exec_nop_cases h with ⟨-, rfl⟩ | ⟨-, rfl⟩ <;> exact h0.respond _
  | size c => rcases exec_size_cases h with ⟨-, rfl⟩ | ⟨-, rfl⟩ <;> exact h0.respond _
  | push c b =>
    rcases exec_push_cases h with ⟨-, rfl⟩ | ⟨-, -, rfl⟩ | ⟨-, hroom, rfl⟩
    · exact h0.respond _
    · exact h0.respond _
    · exact (h0.setChan (.push rfl hroom)).respond _
  | pop c =>
    rcases exec_pop_cases h with ⟨-, rfl⟩ | ⟨-, -, rfl⟩ | ⟨v, -, hcount, hhead, -, rfl⟩
    · exact h0.respond _
    · exact h0.respond _
    · exact (h0.setChan (.pop rfl (fun hz => hcount ((qreg_eq_zero_iff _).2 hz)) hhead)).respond _
  | xmit c b =>
    rcases exec_xmit_cases h with ⟨-, rfl⟩ | ⟨-, u, r, hx, rfl⟩
    · exact h0.respond _
    · exact (h0.xmit (.inl ⟨b, rfl⟩) hx).respond _
  | txc c =>
    rcases exec_txc_cases h with ⟨-, rfl⟩ | ⟨-, -, rfl⟩ | ⟨-, -, hready, u, r, hx, rfl⟩
    · exact h0.respond _
    · exact h0.respond _
    · exact (h0.consume (.inl rfl) hready hx).respond _
  | txvec =>
    rcases exec_txvec_cases h with ⟨-, rfl⟩ | ⟨-, -, rfl⟩ | ⟨-, -, u, v, hu, hv, rfl⟩
    · exact h0.respond _
    · exact h0.respond _
    · exact ((h0.consumeIfFlagged (.inr rfl) hu).consumeIfFlagged (.inr rfl) hv).respond _
  | rxd c =>
    rcases exec_rxd_cases h with ⟨-, rfl⟩ | ⟨-, -, rfl⟩ | ⟨-, hflag, u, r, hx, rfl⟩
    · exact h0.respond _
    · exact h0.respond _
    · exact (h0.receive (.inl rfl) hflag (.inr (.inl ⟨c, rfl, rfl⟩)) hx).respond _
  | rxvec =>
    rcases exec_rxvec_cases h with ⟨-, rfl⟩ | ⟨-, -, rfl⟩ | ⟨-, -, u, r, v, a, hu, hv, rfl⟩
    · exact h0.respond _
    · exact h0.respond _
    · have h1 := h0.dispatchIfPending id hu
      exact (h1.dispatchIfPending (h1.channel .c1).rxflag_of_rxvec hv).respond _
  | txdone c =>
    rw [exec_txdone_next h]
    exact (h0.setChan (.complete rfl)).respond _
  | rxarr c b =>
    rcases exec_rxarr_cases h with ⟨-, rfl⟩ | ⟨hflag, kept, n, hkept, rfl⟩
    · exact (h0.setChan (.arrive rfl (.inl rfl))).respond _
    · have harrive := ChannelEffect.arrive (i := .rxarr c b) (s := s) (x := s.chan c) rfl
        (hkept.symm.imp_right fun hold => ⟨hflag, hold⟩)
      rw [← hflag] at harrive
      exact ((h0.setChan harrive).setFree n).respond _
  | reset => exact absurd rfl hi

end Sys2Proof.Machine

/-! The invariant of the machine, kept by every operation and every step, and the progress it gives. -/

namespace Sys2Proof.Machine

/-- Every effect keeps the invariant of its channel. -/
theorem ChannelEffect.ok {i : Instr} {s : State} {ch : Chan} {x y : Channel} (h : ChannelEffect i s ch x y)
    (hx : x.Ok s.params.C) : y.Ok s.params.C := by
  have hC := Params_C_le s.params
  cases h with
  | push _ hroom => exact hx.enqueue hC (hx.lt_of_ne hroom) _
  | transmit _ hroom => exact hx.transmit hC (hx.lt_of_ne hroom) _
  | pop _ hcount _ => exact hx.dequeue hC hcount
  | send _ _ hcount _ _ => exact hx.send hC hcount _
  | complete => exact hx.of_queue rfl rfl rfl (by simp)
  | overflow | disarm | read | arrive => exact hx.of_queue rfl rfl rfl hx.busy_logged

theorem stateInv_iff (s : State) :
    StateInv s ↔ (∀ ch, (s.chan ch).Ok s.params.C) ∧ (s.halt = true → ∃ ch, (s.chan ch).ovf = true) ∧
      (s.params.ovfMode = .report → s.halt = false) := by
  have hovf : (∃ ch, (s.chan ch).ovf = true) ↔ s.ch0.ovf = true ∨ s.ch1.ovf = true := by
    constructor
    · rintro ⟨_ | _, h⟩
      · exact .inl h
      · exact .inr h
    · rintro (h | h)
      · exact ⟨.c0, h⟩
      · exact ⟨.c1, h⟩
  simp only [hovf, ← channelInv_iff]
  exact ⟨fun ⟨hchan, hhalt, hreport⟩ => ⟨hchan, hhalt, hreport⟩,
    fun ⟨hchan, hhalt, hreport⟩ => ⟨hchan, hhalt, hreport⟩⟩

/-- Operations other than RESET keep the invariant. -/
theorem Effects.stateInv {i : Instr} {s t : State} (h : Effects i s t) (hs : StateInv s) : StateInv t := by
  obtain ⟨hok, hhalt, hreport⟩ := (stateInv_iff s).1 hs
  refine (stateInv_iff t).2 ⟨fun ch => ?_, fun ht => ?_, fun hmode => ?_⟩
  · rw [h.params]
    exact (h.channel ch).preserve (fun _ _ he => he.ok) (hok ch)
  · rcases h.halt ht with hs' | ⟨-, hovf⟩
    · obtain ⟨ch, hch⟩ := hhalt hs'
      exact ⟨ch, (h.channel ch).ovf hch⟩
    · exact hovf
  · rw [h.params] at hmode
    by_contra ht
    rcases h.halt (by simpa using ht) with hs' | ⟨hfail, -⟩
    · simp [hreport hmode] at hs'
    · simp [hmode] at hfail

/-- A machine whose channels are as after reset, and that runs, meets the invariant. -/
theorem stateInv_of_reset {s : State} (hchan : ∀ ch, ∃ rx, s.chan ch = Channel.resetWith rx)
    (hrun : s.halt = false) : StateInv s := by
  refine (stateInv_iff s).2 ⟨fun ch => ?_, fun hh => ?_, fun _ => hrun⟩
  · obtain ⟨rx, hrx⟩ := hchan ch
    exact hrx ▸ Channel.ok_resetWith (Params_C_pos _) rx
  · simp [hrun] at hh

/-- RESET leaves each channel in its reset state (70 R191). -/
theorem exec_reset_chan {s t : State} (h : exec .reset s = .next t) (ch : Chan) :
    ∃ rx, t.chan ch = Channel.resetWith rx := by
  rw [exec_reset_next h]
  cases ch <;> exact ⟨_, rfl⟩

theorem exec_reset_halt {s t : State} (h : exec .reset s = .next t) : t.halt = false := by
  rw [exec_reset_next h]
  rfl

/-- Every operation keeps the invariant. -/
theorem exec_keeps_stateInv {i : Instr} {s t : State} (hs : StateInv s) (h : exec i s = .next t) : StateInv t := by
  by_cases hi : i = .reset
  · subst hi
    exact stateInv_of_reset (exec_reset_chan h) (exec_reset_halt h)
  · exact (exec_effects hi h).stateInv hs

/-- The invariant speaks of the parameters and the tuple alone. -/
theorem StateInv.congr {s t : State} (hs : StateInv s) (hparams : t.params = s.params) (hsame : SameTuple s t) :
    StateInv t := by
  obtain ⟨h0, h1, hhalt⟩ := hsame
  have hchan (ch : Chan) : t.chan ch = s.chan ch := by
    cases ch
    · exact h0.symm
    · exact h1.symm
  simpa only [stateInv_iff, hchan, hparams, hhalt] using hs

/-! ### What every operation keeps, every step keeps -/

section step

/-- The predicate reads the parameters and the tuple alone, and every operation keeps it. -/
structure Kept (P : State → Prop) : Prop where
  exec : ∀ {i s t}, P s → exec i s = .next t → P t
  congr : ∀ {s t}, P s → t.params = s.params → SameTuple s t → P t

theorem kept_stateInv : Kept StateInv := ⟨exec_keeps_stateInv, StateInv.congr⟩

variable {P : State → Prop} (hP : Kept P) {s t : State}
include hP

theorem Kept.respond (hs : P s) (r : Response) : P (s.respond r) := hP.congr hs rfl ⟨rfl, rfl, rfl⟩

theorem Kept.setPort (hs : P s) (w : Option Word) (r : Option Response) : P (s.setPort w r) :=
  hP.congr hs rfl ⟨rfl, rfl, rfl⟩

theorem Kept.setInputs (hs : P s) (l : List Input) : P (s.setInputs l) := hP.congr hs rfl ⟨rfl, rfl, rfl⟩

theorem Kept.setFree (hs : P s) (n : Nat) : P (s.setFree n) := hP.congr hs rfl ⟨rfl, rfl, rfl⟩

theorem Kept.runWord {w : Word} (hs : P s) (h : runWord w s = .next t) : P t := by
  unfold Machine.runWord at h
  split at h
  · exact hP.exec hs h
  · rw [answer_next h]
    exact hP.respond hs _

theorem Kept.runPortWord {w : Word} (hs : P s) (h : runPortWord w s = .next t) : P t := by
  unfold Machine.runPortWord at h
  split at h
  · split at h
    · exact hP.exec hs h
    · rw [answer_next h]
      exact hP.respond hs _
  · rw [answer_next h]
    exact hP.respond hs _

theorem Kept.execAll {is : List Instr} (hs : P s) (h : execAll is s = .next t) : P t := by
  induction is generalizing s with
  | nil =>
    cases h
    exact hs
  | cons i rest ih =>
    obtain ⟨u, hu, ht⟩ := andThen_next h
    exact ih (hP.exec hs hu) ht

theorem Kept.edgeOperation {e : Edge} (hs : P s) (h : edgeOperation e s = .next t) : P t := by
  unfold Machine.edgeOperation at h
  split at h
  · obtain ⟨u, hu, ht⟩ := andThen_next h
    cases ht
    exact hP.setPort (hP.exec hs hu) _ _
  · obtain ⟨u, hu, ht⟩ := andThen_next h
    cases ht
    exact hP.setPort (hP.runPortWord hs hu) _ _
  · cases h
    exact hP.setPort hs _ _

theorem Kept.clockEdge {e : Edge} (hs : P s) (h : clockEdge e s = .next t) : P t := by
  rcases clockEdge_cases h with ⟨-, u, hu, rfl⟩ | ⟨-, -, hop⟩ | ⟨-, -, u, hu, -, ht⟩
  · exact hP.setPort (hP.exec hs hu) _ _
  · exact hP.edgeOperation hs hop
  · exact hP.execAll (hP.edgeOperation hs hu) ht

/-- What every operation keeps, every step keeps, whatever comes in. -/
theorem Kept.step (hs : P s) (h : step s = .next t) : P t := by
  unfold Machine.step advance at h
  split at h
  · exact hP.clockEdge (hP.setFree hs _) h
  · rename_i x rest _
    cases x with
    | word w => exact hP.runWord (hP.setInputs hs rest) h
    | edge e => exact hP.clockEdge (hP.setInputs hs rest) h

end step

/-- Settles O34: both channels are as after reset and the machine runs. -/
theorem reachableStateHoldsAtReset : Obligations.ReachableStateHoldsAtReset := fun p =>
  stateInv_of_reset (fun ch => ⟨0, resetOf_chan p ch⟩) (resetOf_halt p)

/-- Settles O35: every effect of an operation keeps the invariant of its channel, and a step is made of operations. -/
theorem everyStepKeepsTheInvariant : Obligations.EveryStepKeepsTheInvariant := fun _ _ hs h =>
  kept_stateInv.step hs h

/-! ### Progress -/

section progress
variable {s : State} {ch : Chan}

/-- A flagged non-empty queue has a written byte at its head, so its consumer does not fault. -/
def Channel.Servable (C : Nat) (x : Channel) : Prop :=
  x.txflag = true → x.count.toNat ≠ 0 → x.head.toNat < C ∧ x.front.isSome = true

theorem Channel.Ok.servable {C : Nat} {x : Channel} (hC : C ≤ 255) (h : x.Ok C) : x.Servable C := fun _ hcount =>
  ⟨h.head_lt, Option.isSome_iff_exists.2 (h.exists_front hC hcount)⟩

theorem consume_completes (hready : (s.chan ch).txflag = true) (h : (s.chan ch).Servable s.params.C) :
    ∃ t r, consume ch s = .ok (t, r) := by
  by_cases hcount : (s.chan ch).count.toNat = 0
  · exact ⟨_, _, consume_empty ch s ((qreg_eq_zero_iff _).2 hcount)⟩
  · obtain ⟨hhead, hfront⟩ := h hready hcount
    obtain ⟨v, hv⟩ := Option.isSome_iff_exists.1 hfront
    exact ⟨_, _, consume_some ch v s hready (fun h0 => hcount ((qreg_eq_zero_iff _).1 h0)) hhead hv⟩

theorem consumeIfFlagged_completes (h : (s.chan ch).Servable s.params.C) : ∃ t, consumeIfFlagged ch s = .ok t := by
  cases hready : (s.chan ch).txflag with
  | false => exact ⟨s, by simp [consumeIfFlagged, hready]⟩
  | true =>
    obtain ⟨t, r, ht⟩ := consume_completes hready h
    exact ⟨t, by simp [consumeIfFlagged, hready, ht]⟩

/-- TXVEC's body leaves a channel whose peripheral is busy, and consumes on any other (42 R132). -/
def Channel.Visited (C : Nat) (x y : Channel) : Prop :=
  (x.txflag = false ∧ y = x) ∨ (x.txflag = true ∧ ∃ r, x.Consumed C r y)

theorem consumeIfFlagged_visited {t : State} (h : consumeIfFlagged ch s = .ok t) :
    ∃ y, (s.chan ch).Visited s.params.C y ∧ t = s.setChan ch y := by
  rcases consumeIfFlagged_cases h with ⟨hbusy, rfl⟩ | ⟨hready, r, hr⟩
  · exact ⟨_, .inl ⟨hbusy, rfl⟩, (setChan_chan_self _ _).symm⟩
  · obtain ⟨y, hy, rfl⟩ := consume_consumed hready hr
    exact ⟨y, .inr ⟨hready, r, hy⟩, rfl⟩

/-- TXVEC's loop visits both channels, each as it was when the handler began. -/
theorem serveTransmitters_visits {u v : State} (hu : consumeIfFlagged .c0 s = .ok u)
    (hv : consumeIfFlagged .c1 u = .ok v) :
    ∃ y₀ y₁, (s.chan .c0).Visited s.params.C y₀ ∧ (s.chan .c1).Visited s.params.C y₁ ∧
      v = (s.setChan .c0 y₀).setChan .c1 y₁ := by
  obtain ⟨y₀, hy₀, rfl⟩ := consumeIfFlagged_visited hu
  obtain ⟨y₁, hy₁, rfl⟩ := consumeIfFlagged_visited hv
  rw [chan_c1_setChan_c0, setChan_params] at hy₁
  exact ⟨y₀, y₁, hy₀, hy₁, rfl⟩

theorem exec_txvec_completes (h : ∀ ch, (s.chan ch).Servable s.params.C) : ∃ t, exec .txvec s = .next t := by
  obtain ⟨u, hu⟩ := consumeIfFlagged_completes (h .c0)
  obtain ⟨v, hv⟩ : ∃ v, consumeIfFlagged .c1 u = .ok v := by
    obtain ⟨y, -, rfl⟩ := consumeIfFlagged_visited hu
    exact consumeIfFlagged_completes (by simpa using h .c1)
  simp only [exec, execTxvec, unlessHalted, serveTransmitters, hu, hv, finish, answer]
  split
  · exact ⟨_, rfl⟩
  · split <;> exact ⟨_, rfl⟩

theorem exec_txc_completes (h : (s.chan ch).Servable s.params.C) : ∃ t, exec (.txc ch) s = .next t := by
  simp only [exec, execTxc, unlessHalted, answer]
  split
  · exact ⟨_, rfl⟩
  · split
    · rename_i hreq
      obtain ⟨-, -, hready⟩ := (txRequest_iff s ch).1 hreq
      obtain ⟨t, r, ht⟩ := consume_completes hready h
      exact ⟨_, by rw [ht]; rfl⟩
    · exact ⟨_, rfl⟩

theorem exec_pop_completes (h : (s.chan ch).Ok s.params.C) : ∃ t, exec (.pop ch) s = .next t := by
  simp only [exec, execPop, unlessHalted, answer]
  split
  · exact ⟨_, rfl⟩
  · by_cases hcount : (s.chan ch).count.toNat = 0
    · exact ⟨_, by rw [pop_empty ch s ((qreg_eq_zero_iff _).2 hcount)]⟩
    · obtain ⟨v, hv⟩ := h.exists_front (Params_C_le _) hcount
      exact ⟨_, by rw [pop_some ch v s (fun h0 => hcount ((qreg_eq_zero_iff _).1 h0)) h.head_lt hv]⟩

theorem exec_push_completes (ch : Chan) (b : Byte) (s : State) : ∃ t, exec (.push ch b) s = .next t := by
  simp only [exec, execPush, unlessHalted, answer]
  split
  · exact ⟨_, rfl⟩
  · split <;> exact ⟨_, rfl⟩

theorem exec_xmit_completes (ch : Chan) (b : Byte) (s : State) : ∃ t, exec (.xmit ch b) s = .next t := by
  simp only [exec, execXmit, unlessHalted, answer, finish]
  split <;> exact ⟨_, rfl⟩

/-- A requested receive handler finds its byte pending. -/
theorem dispatch_of_rxRequest (hreq : rxRequest s ch = true) :
    dispatch ch s = .ok (xmit (s.params.route ch) (s.chan ch).rxbuf
      (s.setChan ch { s.chan ch with rxflag := false })) :=
  dispatch_pending ch s ((rxRequest_iff s ch).1 hreq).2

theorem exec_rxd_completes (ch : Chan) (s : State) : ∃ t, exec (.rxd ch) s = .next t := by
  simp only [exec, execRxd, unlessHalted, answer]
  split
  · exact ⟨_, rfl⟩
  · split
    · rename_i hreq
      exact ⟨_, by rw [dispatch_of_rxRequest hreq]; rfl⟩
    · exact ⟨_, rfl⟩

theorem dispatchIfPending_completes (ch : Chan) (s : State) (q : Response) :
    ∃ t r, dispatchIfPending ch s q = .ok (t, r) := by
  unfold dispatchIfPending
  split
  · rename_i hreq
    rw [dispatch_of_rxRequest hreq]
    exact ⟨_, _, rfl⟩
  · exact ⟨_, _, rfl⟩

theorem exec_rxvec_completes (s : State) : ∃ t, exec .rxvec s = .next t := by
  obtain ⟨u, r, hu⟩ := dispatchIfPending_completes .c0 s .done
  obtain ⟨v, q, hv⟩ := dispatchIfPending_completes .c1 u r
  simp only [exec, execRxvec, unlessHalted, serveReceivers, hu, hv, finish, answer]
  split
  · exact ⟨_, rfl⟩
  · split <;> exact ⟨_, rfl⟩

end progress

/-- Where the invariant holds every operation gives a next state. -/
theorem exec_completes {s : State} (hs : StateInv s) (i : Instr) : ∃ t, exec i s = .next t := by
  have hservable (ch : Chan) := (hs.ok ch).servable (Params_C_le _)
  cases i with
  | nop | size =>
    simp only [exec, execNop, execSize, unlessHalted, answer]
    split <;> exact ⟨_, rfl⟩
  | push ch b => exact exec_push_completes ch b s
  | pop ch => exact exec_pop_completes (hs.ok ch)
  | xmit ch b => exact exec_xmit_completes ch b s
  | txc ch => exact exec_txc_completes (hservable ch)
  | rxd ch => exact exec_rxd_completes ch s
  | txvec => exact exec_txvec_completes hservable
  | rxvec => exact exec_rxvec_completes s
  | txdone | reset => exact ⟨_, rfl⟩
  | rxarr =>
    simp only [exec, execRxarr, answer]
    split <;> exact ⟨_, rfl⟩

/-- Settles O36: the only operations that can fault are POP and the consumers, and the invariant gives them their
written byte at `head`. -/
theorem operationsNeverStop : Obligations.OperationsNeverStop := fun i _ hs => exec_completes hs i

section stepProgress
variable {s : State} (hs : StateInv s)
include hs

theorem runWord_completes (w : Word) : ∃ t, runWord w s = .next t := by
  unfold runWord
  split
  · exact exec_completes hs _
  · exact ⟨_, rfl⟩

theorem runPortWord_completes (w : Word) : ∃ t, runPortWord w s = .next t := by
  unfold runPortWord
  split
  · split
    · exact exec_completes hs _
    · exact ⟨_, rfl⟩
  · exact ⟨_, rfl⟩

theorem execAll_completes (is : List Instr) : ∃ t, execAll is s = .next t := by
  induction is generalizing s with
  | nil => exact ⟨s, rfl⟩
  | cons i rest ih =>
    obtain ⟨u, hu⟩ := exec_completes hs i
    obtain ⟨t, ht⟩ := ih (exec_keeps_stateInv hs hu)
    exact ⟨t, by rw [execAll, hu]; exact ht⟩

theorem edgeOperation_completes (e : Edge) : ∃ t, edgeOperation e s = .next t := by
  unfold edgeOperation
  split
  · rename_i i _
    obtain ⟨u, hu⟩ := exec_completes hs i
    exact ⟨_, by rw [hu]; rfl⟩
  · rename_i w _
    obtain ⟨u, hu⟩ := runPortWord_completes hs w
    exact ⟨_, by rw [hu]; rfl⟩
  · exact ⟨_, rfl⟩

/-- An edge completes unless a peripheral completes a byte at the very edge that hands it over (30_encoding R85). -/
theorem clockEdge_completes_or (e : Edge) :
    (∃ t, clockEdge e s = .next t) ∨
    ∃ ch t, clockEdge e s = .fault (.completedAtWrite ch) ∧ e.rst = false ∧ e.txDone ch = true ∧
      edgeOperation e s = .next t ∧ txWritten s t ch ≠ [] := by
  obtain ⟨t, ht⟩ := edgeOperation_completes hs e
  unfold clockEdge
  split
  · exact .inl ⟨_, rfl⟩
  · rename_i hrst
    split
    · exact .inl ⟨t, ht⟩
    · simp only [ht, andThen]
      cases hearly : earlyCompletion e s t with
      | none => exact .inl (execAll_completes (kept_stateInv.edgeOperation hs ht) _)
      | some ch =>
        obtain ⟨hpulse, hwritten⟩ := earlyCompletion_some hearly
        exact .inr ⟨ch, t, rfl, by simpa using hrst, hpulse, rfl, hwritten⟩

end stepProgress

/-- No peripheral completes at an edge where no pin is driven. -/
theorem Edge.quiet_txDone (grant : Nat) (ch : Chan) : (Edge.quiet grant).txDone ch = false := by
  cases ch <;> rfl

/-- Settles O37: by the shape of an edge, the early completion is the only way out; an idle edge has no pulse. -/
theorem stepStopsOnlyOnEarlyCompletion : Obligations.StepStopsOnlyOnEarlyCompletion := by
  intro s hs
  unfold step advance
  split
  · rcases clockEdge_completes_or (kept_stateInv.setFree hs (s.free + 1)) (Edge.quiet (Config.arbiterChoice s.free))
      with hnext | ⟨ch, t, -, -, hpulse, -⟩
    · exact .inl hnext
    · simp [Edge.quiet_txDone] at hpulse
  · rename_i x rest hin
    have hrest := kept_stateInv.setInputs hs rest
    cases x with
    | word w => exact .inl (runWord_completes hrest w)
    | edge e =>
      rcases clockEdge_completes_or hrest e with hnext | ⟨ch, t, hfault, hrst, hpulse, hop, hwritten⟩
      · exact .inl hnext
      · exact .inr ⟨ch, e, rest, t, hfault, hin, hrst, hpulse, hop, hwritten⟩

end Sys2Proof.Machine

/-! The decoder against the encoder and the opcode map (30_encoding R76, R88), and the response word (R80, R81). -/

namespace Sys2Proof

theorem decode_packWord (m : Mnemonic) (ch : Chan) (d : Byte) : decode (packWord m.opc ch d) = operationOf m ch d := by
  rw [decode, rsvOf_packWord, opcOf_packWord, chOf_packWord, dataOf_packWord, mnemonicOf_opc]
  rfl

theorem formatZ_eq_op_iff (k i : Instr) (ch : Chan) (d : Byte) :
    formatZ k ch d = .op i ↔ Format.z.admits ch d ∧ k = i := by
  unfold formatZ
  split
  · simp [Format.admits, *]
  · split <;> cases ch <;> simp_all [Format.admits]

theorem formatC_eq_op_iff (k : Chan → Instr) (i : Instr) (ch : Chan) (d : Byte) :
    formatC k ch d = .op i ↔ Format.c.admits ch d ∧ k ch = i := by
  unfold formatC
  split <;> simp_all [Format.admits]

theorem formatCD_eq_op_iff (k : Chan → Byte → Instr) (i : Instr) (ch : Chan) (d : Byte) :
    formatCD k ch d = .op i ↔ k ch d = i := by
  simp [formatCD]

/-- The row of the operation that a row and its operands stand for, and its word. -/
theorem operationOf_eq_op {m : Mnemonic} {ch : Chan} {d : Byte} {i : Instr} (h : operationOf m ch d = .op i) :
    i.mnemonic = m ∧ encode i = packWord m.opc ch d := by
  cases m with
  | NOP | TXVEC | RXVEC | RESET =>
    obtain ⟨⟨rfl, rfl⟩, rfl⟩ := (formatZ_eq_op_iff _ _ _ _).1 h
    exact ⟨rfl, rfl⟩
  | POP | SIZE | TXC | RXD | TXDONE =>
    obtain ⟨hd, rfl⟩ := (formatC_eq_op_iff _ _ _ _).1 h
    obtain rfl : d = 0 := hd
    exact ⟨rfl, rfl⟩
  | PUSH | XMIT | RXARR =>
    obtain rfl := (formatCD_eq_op_iff _ _ _ _).1 h
    exact ⟨rfl, rfl⟩

/-- The fields of a legal word. -/
theorem decode_eq_op_iff (w : Word) (i : Instr) :
    decode w = .op i ↔
      rsvOf w = 0 ∧ ∃ m, mnemonicOf (opcOf w) = some m ∧ operationOf m (chOf w) (dataOf w) = .op i := by
  by_cases hrsv : rsvOf w = 0#3
  · cases hm : mnemonicOf (opcOf w) <;> simp [decode, hrsv, hm]
  · simp [decode, hrsv]

theorem decode_encode (i : Instr) : decode (encode i) = .op i := by
  cases i with
  | nop | txvec | rxvec | reset =>
    exact (decode_packWord _ _ _).trans ((formatZ_eq_op_iff _ _ _ _).2 ⟨⟨rfl, rfl⟩, rfl⟩)
  | pop | size | txc | rxd | txdone =>
    exact (decode_packWord _ _ _).trans ((formatC_eq_op_iff _ _ _ _).2 ⟨rfl, rfl⟩)
  | push | xmit | rxarr => exact decode_packWord _ _ _

theorem encode_of_decode {w : Word} {i : Instr} (h : decode w = .op i) : encode i = w := by
  obtain ⟨hrsv, m, hm, hop⟩ := (decode_eq_op_iff w i).1 h
  rw [(operationOf_eq_op hop).2, mnemonicOf_some hm, packWord_fields w hrsv]

theorem wf_instr (i : Instr) : i.wf = true := by
  cases i with
  | nop => exact Laws.RawForm.nop.1
  | push ch b => exact (Laws.RawForm.push ch b).1
  | pop ch => exact (Laws.RawForm.pop ch).1
  | size ch => exact (Laws.RawForm.size ch).1
  | xmit ch b => exact (Laws.RawForm.xmit ch b).1
  | txc ch => exact (Laws.RawForm.txc ch).1
  | rxd ch => exact (Laws.RawForm.rxd ch).1
  | txvec => exact Laws.RawForm.txvec.1
  | rxvec => exact Laws.RawForm.rxvec.1
  | txdone ch => exact (Laws.RawForm.txdone ch).1
  | rxarr ch b => exact (Laws.RawForm.rxarr ch b).1
  | reset => exact Laws.RawForm.reset.1

/-- Settles O1: the encoder packs the operation's row and operands, and a legal word is its fields packed. -/
theorem decodeAndEncodeAgree : Obligations.DecodeAndEncodeAgree :=
  ⟨fun i => ⟨wf_instr i, decode_encode i⟩, fun _ _ h => encode_of_decode h⟩

/-- A word decodes to an operation of a row exactly when its fields say so. -/
theorem decodes_to_row_iff (w : Word) (m : Mnemonic) :
    (∃ i, decode w = .op i ∧ i.mnemonic = m) ↔
      rsvOf w = 0 ∧ mnemonicOf (opcOf w) = some m ∧ m.format.admits (chOf w) (dataOf w) := by
  constructor
  · rintro ⟨i, hi, rfl⟩
    obtain ⟨hrsv, m, hm, hop⟩ := (decode_eq_op_iff w i).1 hi
    have hadmits := (operationOf_instr?_eq_none_iff (chOf w) (dataOf w) m).not.1 (by simp [hop, Decoded.instr?])
    rw [(operationOf_eq_op hop).1]
    exact ⟨hrsv, hm, not_not.1 hadmits⟩
  · rintro ⟨hrsv, hm, hadmits⟩
    have hlegal := (operationOf_instr?_eq_none_iff (chOf w) (dataOf w) m).not.2 (not_not.2 hadmits)
    cases hop : operationOf m (chOf w) (dataOf w) with
    | op i => exact ⟨i, (decode_eq_op_iff w i).2 ⟨hrsv, m, hm, hop⟩, (operationOf_eq_op hop).1⟩
    | illegal why => simp [hop, Decoded.instr?] at hlegal

/-- Settles O2: decoder and row are conditions on the word's fields, and `OPC` names one row. -/
theorem decoderFollowsOpcodeMap : Obligations.DecoderFollowsOpcodeMap := by
  refine ⟨fun w m => ?_, fun w q r hq hr hwq hwr => ?_⟩
  · rw [decodes_to_row_iff, ← matches_row_iff]
    constructor
    · exact fun h => ⟨m.row, (mem_opcodeMap_iff _).2 ⟨m, rfl⟩, rfl, h⟩
    · rintro ⟨r, hr, rfl, h⟩
      obtain ⟨m, rfl⟩ := (mem_opcodeMap_iff r).1 hr
      exact h
  · obtain ⟨m, rfl⟩ := (mem_opcodeMap_iff q).1 hq
    obtain ⟨n, rfl⟩ := (mem_opcodeMap_iff r).1 hr
    obtain ⟨-, hm, -⟩ := (matches_row_iff w m).1 hwq
    obtain ⟨-, hn, -⟩ := (matches_row_iff w n).1 hwr
    rw [Option.some_inj.1 (hm.symm.trans hn)]

/-- Settles O4: each word is evaluated. -/
theorem sampleWordsDecode : Obligations.SampleWordsDecode := by
  unfold Obligations.SampleWordsDecode
  decide

end Sys2Proof

namespace Sys2Proof.Machine

/-- A response word is laid out as an operation word on channel 0 (30_encoding R71, R80). -/
theorem Response.word_eq_packWord (r : Response) : r.word = packWord r.stat .c0 r.value := by
  simp [Response.word, packWord, Chan.num]

/-- Every status code is also an operation code. -/
theorem Response.stat_eq_opc (r : Response) : ∃ m : Mnemonic, r.stat = m.opc := by
  cases r with
  | done => exact ⟨.NOP, rfl⟩
  | accept => exact ⟨.PUSH, rfl⟩
  | reject => exact ⟨.POP, rfl⟩
  | some => exact ⟨.SIZE, rfl⟩
  | none => exact ⟨.XMIT, rfl⟩
  | count => exact ⟨.TXC, rfl⟩
  | overflow => exact ⟨.RXD, rfl⟩
  | illegal => exact ⟨.TXVEC, rfl⟩
  | halted => exact ⟨.RXVEC, rfl⟩
  | notReady => exact ⟨.TXDONE, rfl⟩

/-- The fields of a response word (30_encoding R80). -/
theorem Response.word_fields (r : Response) :
    (r.word >>> 12).toNat = r.stat ∧ r.word &&& 0x0F00 = 0 ∧ r.word.setWidth 8 = r.value := by
  obtain ⟨m, hm⟩ := r.stat_eq_opc
  rw [r.word_eq_packWord, hm]
  refine ⟨(toNat_shiftRight_eq_opcOf _).trans (opcOf_packWord m _ _), ?_, ?_⟩
  · have hrsv := (and_rsv_eq_zero_iff _).2 (rsvOf_packWord m .c0 r.value)
    have hch := (and_ch_eq_zero_iff _).2 (chOf_packWord m .c0 r.value)
    have hmask : (0x0F00 : Word) = 0x0E00 ||| 0x0100 := rfl
    rw [hmask, BitVec.and_or_distrib_left, hrsv, hch, BitVec.or_self]
  · rw [BitVec.setWidth_eq_extractLsb' (by decide)]
    exact dataOf_packWord m .c0 r.value

/-- A word with no bit in the VALUE field, joined to a value, is their sum. -/
theorem or_value_eq_add (c : Word) (v : Byte) (h : c.setWidth 8 = 0) : c ||| v.setWidth 16 = c + v.setWidth 16 := by
  refine (BitVec.add_eq_or_of_and_eq_zero c _ ?_).symm
  apply BitVec.eq_of_getLsbD_eq
  intro i hi
  by_cases hlow : i < 8
  · have hbit : c.getLsbD i = false := by
      simpa [hlow] using congrArg (·.getLsbD i) h
    rw [BitVec.getLsbD_and, hbit, Bool.false_and, BitVec.getLsbD_zero]
  · have hbit : v.getLsbD i = false := BitVec.getLsbD_of_ge v i (Nat.le_of_not_lt hlow)
    rw [BitVec.getLsbD_and, BitVec.getLsbD_setWidth, hbit, Bool.and_false, Bool.and_false,
      BitVec.getLsbD_zero]

/-- Settles O5: the layout by the fields of a packed word, the words of the codes by evaluation. -/
theorem responseWordLayout : Obligations.ResponseWordLayout :=
  ⟨Response.word_fields, rfl, rfl, rfl, fun v => or_value_eq_add 0x3000 v rfl, rfl,
    fun n => or_value_eq_add 0x5000 n rfl, rfl, rfl, rfl, rfl⟩

end Sys2Proof.Machine

/-! What each operation leaves unchanged, and where each flag and register can change. -/

namespace Sys2Proof.Machine

/-! ### Responses -/

/-- Everything POP can do, on the channel (40 R102). -/
theorem exec_pop_outcomes {ch : Chan} {s t : State} (h : exec (.pop ch) s = .next t) :
    (s.halt = true ∧ t = s.respond .halted) ∨
    (s.halt = false ∧ (s.chan ch).count.toNat = 0 ∧ t = s.respond .none) ∨
    (∃ v, s.halt = false ∧ (s.chan ch).count.toNat ≠ 0 ∧ (s.chan ch).head.toNat < s.params.C ∧
      (s.chan ch).front = some v ∧ t = (s.setChan ch ((s.chan ch).dequeue s.params.C)).respond (.some v)) := by
  rcases exec_pop_cases h with hhalt | ⟨hrun, hcount, rfl⟩ | ⟨v, hrun, hcount, hhead, hfront, rfl⟩
  · exact .inl hhalt
  · exact .inr (.inl ⟨hrun, (qreg_eq_zero_iff _).1 hcount, rfl⟩)
  · exact .inr (.inr ⟨v, hrun, fun h0 => hcount ((qreg_eq_zero_iff _).2 h0), hhead, hfront, rfl⟩)

/-- Everything PUSH can do, on the channel (40 R101). -/
theorem exec_push_outcomes {ch : Chan} {b : Byte} {s t : State} (h : exec (.push ch b) s = .next t) :
    (s.halt = true ∧ t = s.respond .halted) ∨
    (s.halt = false ∧ (s.chan ch).count.toNat = s.params.C ∧ t = s.respond .reject) ∨
    (s.halt = false ∧ (s.chan ch).count.toNat ≠ s.params.C ∧
      t = (s.setChan ch ((s.chan ch).enqueue s.params.C b)).respond .accept) := exec_push_cases h

/-- Everything XMIT can do, on the channel (41 R121). -/
theorem exec_xmit_outcomes {ch : Chan} {b : Byte} {s t : State} (h : exec (.xmit ch b) s = .next t) :
    (s.halt = true ∧ t = s.respond .halted) ∨
    (s.halt = false ∧ (s.chan ch).count.toNat = s.params.C ∧ t = (raiseQueueOverflow ch s).respond .overflow) ∨
    (s.halt = false ∧ (s.chan ch).count.toNat ≠ s.params.C ∧
      t = (s.setChan ch ((s.chan ch).transmit s.params.C b)).respond .accept) := by
  rcases exec_xmit_cases h with hhalt | ⟨hrun, u, r, hx, rfl⟩
  · exact .inl hhalt
  · by_cases hfull : (s.chan ch).count.toNat = s.params.C
    · rw [xmit_full ch b s hfull] at hx
      cases hx
      exact .inr (.inl ⟨hrun, hfull, rfl⟩)
    · rw [xmit_eq_transmit ch b hfull] at hx
      cases hx
      exact .inr (.inr ⟨hrun, hfull, rfl⟩)

theorem xmit_response {ch : Chan} {b : Byte} {s t : State} {r : Response} (h : xmit ch b s = (t, r)) :
    r = .accept ∨ r = .overflow := by
  rcases xmit_cases h with ⟨-, rfl, -⟩ | ⟨-, rfl, -⟩
  · exact .inr rfl
  · exact .inl rfl

/-- RXVEC's body keeps DONE and OVERFLOW as the handler's response so far. -/
theorem dispatchIfPending_response {ch : Chan} {s t : State} {q r : Response} (hq : q = .done ∨ q = .overflow)
    (h : dispatchIfPending ch s q = .ok (t, r)) : r = .done ∨ r = .overflow := by
  rcases dispatchIfPending_cases h with ⟨-, -, rfl⟩ | ⟨-, -, a, -, rfl⟩
  · exact hq
  · split
    · exact .inr rfl
    · exact hq

/-- TXC on an enabled channel, on the channel (42 R131). -/
theorem exec_txc_outcomes {ch : Chan} {s t : State} (h : exec (.txc ch) s = .next t) :
    (s.halt = true ∧ t = s.respond .halted) ∨
    (s.halt = false ∧ txRequest s ch = false ∧ t = s.respond .notReady) ∨
    (s.halt = false ∧ txRequest s ch = true ∧ ∃ r y, (s.chan ch).Consumed s.params.C r y ∧
      t = (s.setChan ch y).respond r) := by
  rcases exec_txc_cases h with hhalt | hidle | ⟨hrun, harmed, hready, u, r, hx, rfl⟩
  · exact .inl hhalt
  · exact .inr (.inl hidle)
  · obtain ⟨y, hy, rfl⟩ := consume_consumed hready hx
    exact .inr (.inr ⟨hrun, (txRequest_iff s ch).2 ⟨by simp [hrun], harmed, hready⟩, r, y, hy, rfl⟩)

/-- Settles O25: read off what each operation can do. -/
theorem responsesOfEachOperation : Obligations.ResponsesOfEachOperation := by
  intro i s t h
  cases i with
  | nop => rcases exec_nop_cases h with ⟨-, rfl⟩ | ⟨-, rfl⟩ <;> simp
  | size c => rcases exec_size_cases h with ⟨-, rfl⟩ | ⟨-, rfl⟩ <;> simp
  | push c b => rcases exec_push_cases h with ⟨-, rfl⟩ | ⟨-, -, rfl⟩ | ⟨-, -, rfl⟩ <;> simp
  | pop c => rcases exec_pop_cases h with ⟨-, rfl⟩ | ⟨-, -, rfl⟩ | ⟨v, -, -, -, -, rfl⟩ <;> simp
  | xmit c b => rcases exec_xmit_outcomes h with ⟨-, rfl⟩ | ⟨-, -, rfl⟩ | ⟨-, -, rfl⟩ <;> simp
  | txc c =>
    rcases exec_txc_outcomes h with ⟨-, rfl⟩ | ⟨-, -, rfl⟩ | ⟨-, -, r, y, ⟨-, rfl, rfl⟩ | ⟨v, -, -, -, rfl, rfl⟩, rfl⟩
      <;> simp
  | rxd c =>
    rcases exec_rxd_cases h with ⟨-, rfl⟩ | ⟨-, -, rfl⟩ | ⟨-, -, u, r, hx, rfl⟩
    · simp
    · simp
    · exact ⟨r, rfl, (xmit_response hx).imp_right .inl⟩
  | txvec => rcases exec_txvec_cases h with ⟨-, rfl⟩ | ⟨-, -, rfl⟩ | ⟨-, -, u, v, -, -, rfl⟩ <;> simp
  | rxvec =>
    rcases exec_rxvec_cases h with ⟨-, rfl⟩ | ⟨-, -, rfl⟩ | ⟨-, -, u, r, v, a, hu, hv, rfl⟩
    · simp
    · simp
    · have ha := dispatchIfPending_response (dispatchIfPending_response (.inl rfl) hu) hv
      exact ⟨a, rfl, ha.imp_right .inl⟩
  | txdone c =>
    rw [exec_txdone_next h]
    simp
  | rxarr c b => rcases exec_rxarr_cases h with ⟨-, rfl⟩ | ⟨-, kept, n, -, rfl⟩ <;> simp
  | reset =>
    rw [exec_reset_next h]
    simp

/-! ### Surroundings and storages -/

theorem exec_surroundings {i : Instr} {s t : State} (h : exec i s = .next t) : SameSurroundings s t := by
  by_cases hi : i = .reset
  · subst hi
    rw [exec_reset_next h]
    exact ⟨rfl, rfl, rfl, rfl⟩
  · exact (exec_effects hi h).surroundings

theorem exec_params {i : Instr} {s t : State} (h : exec i s = .next t) : t.params = s.params :=
  (exec_surroundings h).1.symm

/-- Settles O26: no effect touches the surroundings, and neither does RESET. -/
theorem operationsKeepTheSurroundings : Obligations.OperationsKeepTheSurroundings := fun _ _ _ h =>
  exec_surroundings h

section effects
variable {i : Instr} {s : State} {ch : Chan} {x y : Channel} (h : ChannelEffects i s ch x y)
include h

/-- Only a push and a transmission write a cell (20_memory R55). -/
theorem ChannelEffects.storage (hpush : ∀ b, i ≠ .push ch b) (htx : ¬ Transmits i s ch) : y.storage = x.storage :=
  h.preserve (P := fun z => z.storage = x.storage) (fun _ _ he hz => by
    cases he with
    | push hi => exact absurd hi (hpush _)
    | transmit hi => exact absurd hi htx
    | _ => exact hz) rfl

/-- An operation none of whose effects falls on the channel leaves it as it was. -/
theorem ChannelEffects.eq_of_none (hnone : ∀ z w, ¬ ChannelEffect i s ch z w) : y = x :=
  h.preserve (P := fun z => z = x) (fun _ _ he => absurd he (hnone _ _)) rfl

end effects

/-- Settles O27: none of these operations pushes or transmits. -/
theorem nonPushingOperationsKeepStorage : Obligations.NonPushingOperationsKeepStorage := by
  intro s t c d b i hi h a
  have hreset : i ≠ .reset := by
    rintro rfl
    simp at hi
  have hpush (b' : Byte) : i ≠ .push c b' := by
    rintro rfl
    simp at hi
  have htx : ¬ Transmits i s c := by
    rintro (⟨b', rfl⟩ | ⟨src, rfl, -⟩ | ⟨rfl, -⟩) <;> simp at hi
  rw [cellAt, ((exec_effects hreset h).channel c).storage hpush htx, cellAt]

/-! ### The cells a transmission writes -/

/-- What happened to a channel's cells: one byte was queued, or no cell was written. -/
structure WroteTail (s t : State) (ch : Chan) (b : Byte) : Prop where
  others : ∀ a, a ≠ s.tail ch → cellAt t ch a = cellAt s ch a
  accepted : t.rsp = some .accept → cellAt t ch (s.tail ch) = some b
  refused : t.rsp ≠ some .accept → ∀ a, cellAt t ch a = cellAt s ch a

theorem wroteTail_of_accept {s t : State} {ch : Chan} {b : Byte}
    (hstorage : (t.chan ch).storage = Storage.write (s.chan ch).storage (s.tail ch) b)
    (hrsp : t.rsp = some .accept) : WroteTail s t ch b where
  others a ha := by rw [cellAt, hstorage, read_write_other _ _ _ _ ha, cellAt]
  accepted _ := by rw [cellAt, hstorage, read_write_same]
  refused hno := absurd hrsp hno

theorem wroteTail_of_same {s t : State} {ch : Chan} {b : Byte} (hstorage : (t.chan ch).storage = (s.chan ch).storage)
    (hrsp : t.rsp ≠ some .accept) : WroteTail s t ch b where
  others a _ := by rw [cellAt, hstorage, cellAt]
  accepted hyes := absurd hyes hrsp
  refused _ a := by rw [cellAt, hstorage, cellAt]

@[simp] theorem raiseQueueOverflow_storage (ch d : Chan) (s : State) :
    ((raiseQueueOverflow ch s).chan d).storage = (s.chan d).storage :=
  raiseQueueOverflow_apply Channel.storage (fun _ => rfl) ch d s

theorem raiseQueueOverflow_chan_ne {ch d : Chan} (s : State) (h : d ≠ ch) :
    (raiseQueueOverflow ch s).chan d = s.chan d := by
  rw [raiseQueueOverflow_eq, setHalt_chan, chan_setChan_ne _ _ _ _ h]

theorem exec_push_wroteTail {s t : State} {ch : Chan} {b : Byte} (h : exec (.push ch b) s = .next t) :
    t.chan ch.other = s.chan ch.other ∧ WroteTail s t ch b := by
  rcases exec_push_cases h with ⟨-, rfl⟩ | ⟨-, -, rfl⟩ | ⟨-, -, rfl⟩
  · exact ⟨by simp, wroteTail_of_same (by simp) (by simp)⟩
  · exact ⟨by simp, wroteTail_of_same (by simp) (by simp)⟩
  · exact ⟨by simp, wroteTail_of_accept (by simp) (by simp)⟩

theorem exec_xmit_wroteTail {s t : State} {ch : Chan} {b : Byte} (h : exec (.xmit ch b) s = .next t) :
    t.chan ch.other = s.chan ch.other ∧ WroteTail s t ch b := by
  rcases exec_xmit_outcomes h with ⟨-, rfl⟩ | ⟨-, -, rfl⟩ | ⟨-, -, rfl⟩
  · exact ⟨by simp, wroteTail_of_same (by simp) (by simp)⟩
  · exact ⟨by simp [raiseQueueOverflow_chan_ne], wroteTail_of_same (by simp) (by simp)⟩
  · exact ⟨by simp, wroteTail_of_accept (by rw [respond_chan, chan_setChan_same]; rfl) (by simp)⟩

/-- Settles O28: accepted, the byte stands at the insert position; refused, no cell is written. -/
theorem pushWritesOnlyTheTailCell : Obligations.PushWritesOnlyTheTailCell := by
  intro s t ch b i hi h
  have key : t.chan ch.other = s.chan ch.other ∧ WroteTail s t ch b := by
    rcases List.mem_pair.1 hi with rfl | rfl
    · exact exec_push_wroteTail h
    · exact exec_xmit_wroteTail h
  obtain ⟨hother, hothers, haccepted, hrefused⟩ := key
  exact ⟨hother, hothers, haccepted, hrefused⟩

/-- Reading the receive register leaves every queue as it was. -/
theorem read_chan_queue (ch d : Chan) (s : State) :
    ((s.setChan ch { s.chan ch with rxflag := false }).chan d).storage = (s.chan d).storage ∧
    ((s.setChan ch { s.chan ch with rxflag := false }).chan d).head = (s.chan d).head ∧
    ((s.setChan ch { s.chan ch with rxflag := false }).chan d).count = (s.chan d).count :=
  ⟨read_apply Channel.storage (fun _ => rfl) ch d s, read_apply Channel.head (fun _ => rfl) ch d s,
    read_apply Channel.count (fun _ => rfl) ch d s⟩

/-- Everything RXD can do: the byte it read is accepted by the routed channel, or overflows it (43 R141). -/
theorem exec_rxd_outcomes {ch : Chan} {s t : State} (h : exec (.rxd ch) s = .next t) :
    (s.halt = true ∧ t = s.respond .halted) ∨
    (s.halt = false ∧ (s.chan ch).rxflag = false ∧ t = s.respond .notReady) ∨
    (s.halt = false ∧ (s.chan ch).rxflag = true ∧
      ∃ u, u = s.setChan ch { s.chan ch with rxflag := false } ∧
        ((s.chan (s.params.route ch)).count.toNat = s.params.C ∧
          t = (raiseQueueOverflow (s.params.route ch) u).respond .overflow ∨
         (s.chan (s.params.route ch)).count.toNat ≠ s.params.C ∧
          t = (u.setChan (s.params.route ch)
            ((u.chan (s.params.route ch)).transmit s.params.C (s.chan ch).rxbuf)).respond .accept)) := by
  rcases exec_rxd_cases h with hhalt | hidle | ⟨hrun, hflag, v, r, hx, rfl⟩
  · exact .inl hhalt
  · exact .inr (.inl hidle)
  · refine .inr (.inr ⟨hrun, hflag, _, rfl, ?_⟩)
    have hcount := (read_chan_queue ch (s.params.route ch) s).2.2
    by_cases hfull : (s.chan (s.params.route ch)).count.toNat = s.params.C
    · rw [xmit_full _ _ _ (by rw [hcount, setChan_params, hfull])] at hx
      cases hx
      exact .inl ⟨hfull, rfl⟩
    · rw [xmit_eq_transmit _ _ (by rwa [hcount, setChan_params]), setChan_params] at hx
      cases hx
      exact .inr ⟨hfull, rfl⟩

theorem exec_rxd_wroteTail {s t : State} {ch : Chan} (h : exec (.rxd ch) s = .next t) :
    WroteTail s t (s.params.route ch) (s.chan ch).rxbuf := by
  rcases exec_rxd_outcomes h with ⟨-, rfl⟩ | ⟨-, -, rfl⟩ | ⟨-, -, u, rfl, ⟨-, rfl⟩ | ⟨-, rfl⟩⟩
  · exact wroteTail_of_same (by simp) (by simp)
  · exact wroteTail_of_same (by simp) (by simp)
  · exact wroteTail_of_same (by simp [read_chan_queue]) (by simp)
  · obtain ⟨hstorage, hhead, hcount⟩ := read_chan_queue ch (s.params.route ch) s
    refine wroteTail_of_accept ?_ (by simp)
    simp only [respond_chan, chan_setChan_same, Channel.transmit_storage, Channel.enqueue, hstorage, hhead, hcount,
      State.tail]

/-- Settles O29: the routed channel's cells by `WroteTail`; a channel not routed to loses its pending flag at most. -/
theorem rxdWritesOnlyTheRoutedTailCell : Obligations.RxdWritesOnlyTheRoutedTailCell := by
  rintro s t ch d h rfl
  obtain ⟨hothers, haccepted, hrefused⟩ := exec_rxd_wroteTail h
  refine ⟨hothers, haccepted, hrefused, fun hrelay => ?_, fun hecho => ?_⟩
  · rcases exec_rxd_outcomes h with ⟨-, rfl⟩ | ⟨-, -, rfl⟩ | ⟨-, -, u, rfl, ⟨-, rfl⟩ | ⟨-, rfl⟩⟩
    · simp
    · simp
    · simp [raiseQueueOverflow_chan_ne _ hrelay.symm]
    · simp [chan_setChan_ne _ _ _ _ hrelay.symm]
  · rcases exec_rxd_outcomes h with ⟨-, rfl⟩ | ⟨-, -, rfl⟩ | ⟨-, -, u, rfl, ⟨-, rfl⟩ | ⟨-, rfl⟩⟩
    · simp
    · simp
    · simp [hecho, raiseQueueOverflow_chan_ne]
    · simp [hecho]

end Sys2Proof.Machine

/-! The result of each operation, as an equation for its next state. -/

namespace Sys2Proof.Machine

section running
variable {s : State} {ch : Chan} (hrun : s.halt = false)
include hrun

theorem exec_nop_running : exec .nop s = .next (s.respond .done) := unlessHalted_running s _ hrun

theorem exec_push_full (b : Byte) (hfull : (s.chan ch).count.toNat = s.params.C) :
    exec (.push ch b) s = .next (s.respond .reject) := by
  simp only [exec, execPush, unlessHalted_running s _ hrun, push_full ch b s hfull, answer]

theorem exec_push_room (b : Byte) (hroom : (s.chan ch).count.toNat ≠ s.params.C) :
    exec (.push ch b) s = .next ((s.setChan ch ((s.chan ch).enqueue s.params.C b)).respond .accept) := by
  simp only [exec, execPush, unlessHalted_running s _ hrun, push_room ch b s hroom, answer]
  rfl

theorem exec_pop_empty (hcount : (s.chan ch).count.toNat = 0) : exec (.pop ch) s = .next (s.respond .none) := by
  simp only [exec, execPop, unlessHalted_running s _ hrun, pop_empty ch s ((qreg_eq_zero_iff _).2 hcount), answer]

theorem exec_pop_some {v : Byte} (hcount : (s.chan ch).count.toNat ≠ 0) (hhead : (s.chan ch).head.toNat < s.params.C)
    (hfront : (s.chan ch).front = some v) :
    exec (.pop ch) s = .next ((s.setChan ch ((s.chan ch).dequeue s.params.C)).respond (.some v)) := by
  have hcount' : (s.chan ch).count ≠ 0 := fun h0 => hcount ((qreg_eq_zero_iff _).1 h0)
  simp only [exec, execPop, unlessHalted_running s _ hrun, pop_some ch v s hcount' hhead hfront, answer]
  rfl

theorem exec_xmit_room (b : Byte) (hroom : (s.chan ch).count.toNat ≠ s.params.C) :
    exec (.xmit ch b) s = .next ((s.setChan ch ((s.chan ch).transmit s.params.C b)).respond .accept) := by
  simp only [exec, execXmit, unlessHalted_running s _ hrun, xmit_eq_transmit ch b hroom, finish]

theorem exec_txc_empty (hreq : txRequest s ch = true) (hcount : (s.chan ch).count.toNat = 0) :
    exec (.txc ch) s = .next ((s.setChan ch { s.chan ch with txIe := false }).respond .none) := by
  simp only [exec, execTxc, unlessHalted_running s _ hrun, hreq, if_true,
    consume_empty ch s ((qreg_eq_zero_iff _).2 hcount), finish]

theorem exec_txc_some {v : Byte} (hreq : txRequest s ch = true) (hcount : (s.chan ch).count.toNat ≠ 0)
    (hhead : (s.chan ch).head.toNat < s.params.C) (hfront : (s.chan ch).front = some v) :
    exec (.txc ch) s = .next ((s.setChan ch ((s.chan ch).send s.params.C v)).respond (.some v)) := by
  obtain ⟨-, -, hready⟩ := (txRequest_iff s ch).1 hreq
  have hcount' : (s.chan ch).count ≠ 0 := fun h0 => hcount ((qreg_eq_zero_iff _).1 h0)
  simp only [exec, execTxc, unlessHalted_running s _ hrun, hreq, if_true,
    consume_some ch v s hready hcount' hhead hfront, finish]
  rfl

theorem txRequest_of_armed (harmed : (s.chan ch).txIe = true) (hready : (s.chan ch).txflag = true) :
    txRequest s ch = true := (txRequest_iff s ch).2 ⟨Bool.eq_false_iff.1 hrun, harmed, hready⟩

end running

/-- Settles O8: past the halt test both answer at once. -/
theorem nopAndSizeOnlyAnswer : Obligations.NopAndSizeOnlyAnswer := fun s hrun =>
  ⟨exec_nop_running hrun, fun ch => exec_size_running s ch hrun⟩

/-- Settles O9: the queue is full or has room. -/
theorem pushQueuesTheByte : Obligations.PushQueuesTheByte := fun _ b _ hrun =>
  ⟨exec_push_full hrun b, exec_push_room hrun b⟩

/-- Settles O10: the queue is empty or gives the byte at `head`. -/
theorem popTakesTheByteAtHead : Obligations.PopTakesTheByteAtHead := fun _ _ hrun =>
  ⟨exec_pop_empty hrun, fun _ => exec_pop_some hrun⟩

/-- Settles O11: with room the queued byte is a transmission, which arms an empty queue. -/
theorem xmitQueuesAndArms : Obligations.XmitQueuesAndArms := fun _ b _ hrun hroom => exec_xmit_room hrun b hroom

/-- Settles O12: an armed and flagged channel requests, and its consumer finds a byte or none. -/
theorem txcTransmitsOrDisarms : Obligations.TxcTransmitsOrDisarms := fun _ _ hrun harmed hready =>
  ⟨exec_txc_empty hrun (txRequest_of_armed hrun harmed hready),
    fun _ => exec_txc_some hrun (txRequest_of_armed hrun harmed hready)⟩

/-- Settles O17: TXDONE has no halt test and no other case. -/
theorem txdoneSetsTheCompletionFlag : Obligations.TxdoneSetsTheCompletionFlag := fun _ _ => rfl

/-- Settles O18: on an overrun either value of the free choice keeps one of the two bytes. -/
theorem rxarrLoadsTheReceiveRegister : Obligations.RxarrLoadsTheReceiveRegister := by
  refine fun ch b s => ⟨fun hread => ?_, fun hpending => ?_⟩
  · simp only [exec, execRxarr, hread, Bool.false_eq_true, if_false, answer]
  · refine ⟨if Config.overrunTakesNew s.free then b else (s.chan ch).rxbuf, s.free + 1, ?_, ?_⟩
    · split
      · exact .inr rfl
      · exact .inl rfl
    · simp only [exec, execRxarr, hpending, if_true, answer]

/-- Settles O19: RESET does not look at the state but for the counter of free values. -/
theorem resetRestoresTheTuple : Obligations.ResetRestoresTheTuple := fun s =>
  ⟨_, Config.rxbufAfterReset s.free, Config.rxbufAfterReset (s.free + 1), rfl, rfl, ⟨rfl, rfl, rfl, rfl⟩, rfl, rfl, rfl⟩

/-! ### The halted machine -/

theorem enabledHandlers_halted {s : State} (h : s.halt = true) : enabledHandlers s = [] := by
  refine List.eq_nil_iff_forall_not_mem.2 fun i hi => ?_
  cases hvec : s.params.sharedVec with
  | true => simp [mem_enabledHandlers_shared hvec, irqTx_iff, irqRx_iff, h] at hi
  | false => simp [mem_enabledHandlers_dedicated hvec, txRequest_iff, rxRequest_iff, h] at hi

/-- Every operation but RESET and the environment's begins with the halt test (60 R169). -/
theorem exec_halted {i : Instr} {s : State} (hhalt : s.halt = true) (hreset : i ≠ .reset)
    (htxdone : ∀ ch, i ≠ .txdone ch) (hrxarr : ∀ ch b, i ≠ .rxarr ch b) : exec i s = .next (s.respond .halted) := by
  cases i with
  | reset => exact absurd rfl hreset
  | txdone ch => exact absurd rfl (htxdone ch)
  | rxarr ch b => exact absurd rfl (hrxarr ch b)
  | _ => exact unlessHalted_halted s _ hhalt

/-- Settles O22: the halt test comes first, and a halted machine has no request up. -/
theorem haltedMachineOnlyAnswers : Obligations.HaltedMachineOnlyAnswers :=
  fun _ _ hhalt hreset htxdone hrxarr =>
    ⟨exec_halted hhalt hreset htxdone hrxarr, enabledHandlers_halted hhalt⟩

/-! ### The shared transmit handler -/

/-- Everything TXVEC can do, channel by channel (42 R132). -/
theorem exec_txvec_outcomes {s t : State} (h : exec .txvec s = .next t) :
    (s.halt = true ∧ t = s.respond .halted) ∨
    (s.halt = false ∧ irqTx s = false ∧ t = s.respond .notReady) ∨
    (s.halt = false ∧ irqTx s = true ∧ (∀ ch, (s.chan ch).Visited s.params.C (t.chan ch)) ∧
      t.rsp = some .done ∧ t.halt = s.halt ∧ t.free = s.free) := by
  rcases exec_txvec_cases h with hhalt | hidle | ⟨hrun, hirq, u, v, hu, hv, rfl⟩
  · exact .inl hhalt
  · exact .inr (.inl hidle)
  · obtain ⟨y₀, y₁, hy₀, hy₁, rfl⟩ := serveTransmitters_visits hu hv
    refine .inr (.inr ⟨hrun, hirq, ?_, rfl, rfl, rfl⟩)
    rintro (_ | _)
    · exact hy₀
    · exact hy₁

/-- A visited channel, by its completion flag and its count. -/
theorem Channel.Visited.result {C : Nat} {x y : Channel} (h : x.Visited C y) :
    if x.txflag = false then y = x
    else if x.count.toNat = 0 then y = { x with txIe := false }
    else ∃ v, x.front = some v ∧ y = x.send C v := by
  rcases h with ⟨hbusy, rfl⟩ | ⟨hready, r, ⟨hcount, -, rfl⟩ | ⟨v, hcount, -, hfront, -, rfl⟩⟩
  · rw [if_pos hbusy]
  · rw [if_neg (by simp [hready]), if_pos hcount]
  · rw [if_neg (by simp [hready]), if_neg hcount]
    exact ⟨v, hfront, rfl⟩

/-- Settles O13: a written byte at the head of each flagged queue lets TXVEC complete, and it visits both channels. -/
theorem txvecServesEveryFlaggedChannel : Obligations.TxvecServesEveryFlaggedChannel := by
  rintro s hrun ⟨c, harmed, hready⟩ hservable
  have hreq : txRequest s c = true := txRequest_of_armed hrun harmed hready
  have hirq : irqTx s = true := by
    cases c <;> simp [irqTx, hreq]
  obtain ⟨t, ht⟩ := exec_txvec_completes hservable
  rcases exec_txvec_outcomes ht with ⟨hhalt, -⟩ | ⟨-, hno, -⟩ | ⟨-, -, hvisited, hrsp, hhalt, hfree⟩
  · simp [hrun] at hhalt
  · simp [hirq] at hno
  · exact ⟨t, ht, hrsp, hhalt, hfree, exec_surroundings ht, fun ch => (hvisited ch).result⟩

/-! ### The receive handlers -/

theorem exec_rxd_of_rxRequest {s : State} {ch : Chan} (hrun : s.halt = false) (hreq : rxRequest s ch = true) :
    exec (.rxd ch) s = finish (dispatch ch s) := (unlessHalted_running s _ hrun).trans (if_pos hreq)

/-- Settles O14: reading the receive register leaves the routed queue as it was. -/
theorem rxdQueuesOnTheRoutedChannel : Obligations.RxdQueuesOnTheRoutedChannel := by
  rintro ch s u hrun hflag rfl hroom
  obtain ⟨hstorage, hhead, hcount⟩ := read_chan_queue ch (s.params.route ch) s
  have htxIe : ((s.setChan ch { s.chan ch with rxflag := false }).chan (s.params.route ch)).txIe =
      (s.chan (s.params.route ch)).txIe := read_apply Channel.txIe (fun _ => rfl) ch _ s
  rw [exec_rxd_of_rxRequest hrun (rxRequest_of_pending hrun hflag), dispatch_pending ch s hflag,
    xmit_eq_transmit _ _ (by rwa [hcount, setChan_params]), finish]
  simp only [Channel.transmit, Channel.enqueue, setChan_params, hstorage, hhead, hcount, htxIe]

section receive
variable {s : State} {ch : Chan}

/-- A requested RXVEC runs its loop. -/
theorem exec_rxvec_of_pending (hrun : s.halt = false) (hflag : (s.chan ch).rxflag = true) :
    exec .rxvec s = finish (serveReceivers s) := by
  have hirq : irqRx s = true := (irqRx_iff s).2 ⟨Bool.eq_false_iff.1 hrun, by cases ch <;> simp [hflag]⟩
  exact (unlessHalted_running s _ hrun).trans (if_pos hirq)

theorem not_rxRequest (h : s.halt = true ∨ (s.chan ch).rxflag = false) : ¬ rxRequest s ch = true := by
  rw [rxRequest_iff]
  rcases h with h | h <;> simp [h]

/-- A transmission halts a running machine only by an overflow in FAILSTOP mode (60 R170). -/
theorem xmit_halts {b : Byte} {t : State} {r : Response} (hx : xmit ch b s = (t, r)) (hrun : s.halt = false)
    (hhalt : t.halt = true) :
    s.params.ovfMode = .failstop ∧ r = .overflow ∧ (t.chan ch).count.toNat = s.params.C ∧
      (t.chan ch).ovf = true := by
  rcases xmit_cases hx with ⟨hfull, rfl, rfl⟩ | ⟨-, -, rfl⟩
  · exact ⟨by simpa [hrun] using hhalt, rfl, by simpa using hfull, by simp⟩
  · simp [hrun] at hhalt

/-- RXVEC's body for a pending channel is RXD of it, its response joined to the handler's. -/
theorem dispatchIfPending_eq_rxd (hrun : s.halt = false) (hflag : (s.chan ch).rxflag = true) :
    ∃ u r, exec (.rxd ch) s = .next (u.respond r) ∧ (u.halt = true → r = .overflow) ∧
      ∀ q, dispatchIfPending ch s q = .ok (u, if r = .overflow then .overflow else q) := by
  have hreq := rxRequest_of_pending hrun hflag
  obtain ⟨u, r, hx⟩ : ∃ u r, xmit (s.params.route ch) (s.chan ch).rxbuf
      (s.setChan ch { s.chan ch with rxflag := false }) = (u, r) := ⟨_, _, rfl⟩
  refine ⟨u, r, ?_, fun hhalt => (xmit_halts hx (by simpa using hrun) hhalt).2.1, fun q => ?_⟩
  · rw [exec_rxd_of_rxRequest hrun hreq, dispatch_pending ch s hflag, hx, finish]
  · simp only [dispatchIfPending, hreq, if_true, dispatch_pending ch s hflag, hx]

/-- No operation reads the last response: XMIT carries it along. -/
theorem xmit_respond (b : Byte) (a : Response) :
    xmit ch b (s.respond a) = ((xmit ch b s).1.respond a, (xmit ch b s).2) := by
  by_cases hfull : (s.chan ch).count.toNat = s.params.C
  · rw [xmit_full ch b s hfull, xmit_full ch b _ (by simpa using hfull)]
    simp only [raiseQueueOverflow_eq, respond_chan, setChan_respond, respond_halt, respond_params]
    rfl
  · rw [xmit_eq_transmit ch b hfull, xmit_eq_transmit ch b (by simpa using hfull)]
    simp only [respond_chan, setChan_respond, respond_params]

theorem exec_rxd_respond (a : Response) (hrun : s.halt = false) (hflag : (s.chan ch).rxflag = true) :
    exec (.rxd ch) (s.respond a) = exec (.rxd ch) s := by
  have hrun' : (s.respond a).halt = false := hrun
  have hflag' : ((s.respond a).chan ch).rxflag = true := by rwa [respond_chan]
  rw [exec_rxd_of_rxRequest hrun (rxRequest_of_pending hrun hflag), dispatch_pending ch s hflag,
    exec_rxd_of_rxRequest hrun' (rxRequest_of_pending hrun' hflag'), dispatch_pending ch _ hflag']
  simp only [respond_params, respond_chan, setChan_respond, xmit_respond, finish, respond_respond]

/-- RXD of a channel leaves the pending flag of the other. -/
theorem exec_rxd_rxflag_other {t : State} (h : exec (.rxd ch) s = .next t) :
    (t.chan ch.other).rxflag = (s.chan ch.other).rxflag := by
  rcases exec_rxd_cases h with ⟨-, rfl⟩ | ⟨-, -, rfl⟩ | ⟨-, -, u, r, hx, rfl⟩
  · simp
  · simp
  · simpa using (receive_rxflag hx).2

end receive

/-- Settles O15: RXVEC's body for each channel is RXD of it, and is skipped with nothing pending or the machine
halted. -/
theorem rxvecServesPendingChannelsInOrder : Obligations.RxvecServesPendingChannelsInOrder := by
  refine fun s hrun => ⟨fun h0 h1 => ?first, fun h0 h1 => ?second, fun h0 h1 => ?both⟩
  case first =>
    obtain ⟨u, r, hrxd, -, hbody⟩ := dispatchIfPending_eq_rxd hrun h0
    have hskip : ¬ rxRequest u .c1 = true :=
      not_rxRequest (.inr (by simpa [Chan.other, h1] using exec_rxd_rxflag_other hrxd))
    refine ⟨_, hrxd, ?_⟩
    rw [exec_rxvec_of_pending hrun h0]
    simp [serveReceivers, hbody, dispatchIfPending_skip _ hskip, finish]
  case second =>
    obtain ⟨u, r, hrxd, -, hbody⟩ := dispatchIfPending_eq_rxd hrun h1
    refine ⟨_, hrxd, ?_⟩
    rw [exec_rxvec_of_pending hrun h1]
    simp [serveReceivers, dispatchIfPending_skip _ (not_rxRequest (.inr h0)), hbody, finish]
  case both =>
    obtain ⟨u, r, hrxd, hover, hbody⟩ := dispatchIfPending_eq_rxd hrun h0
    have hflag : (u.chan .c1).rxflag = true := by
      simpa [Chan.other, h1] using exec_rxd_rxflag_other hrxd
    refine ⟨_, hrxd, fun hhalt => ?_, fun hgoes => ?_⟩
    · have hskip : ¬ rxRequest u .c1 = true := not_rxRequest (.inl hhalt)
      rw [exec_rxvec_of_pending hrun h0]
      simp [serveReceivers, hbody, dispatchIfPending_skip _ hskip, finish, hover hhalt]
    · obtain ⟨v, q, hrxd', -, hbody'⟩ := dispatchIfPending_eq_rxd (s := u) hgoes hflag
      refine ⟨_, (exec_rxd_respond (s := u) r hgoes hflag).trans hrxd', ?_⟩
      rw [exec_rxvec_of_pending hrun h0]
      by_cases hr : r = .overflow <;> by_cases hq : q = .overflow <;>
        simp [serveReceivers, hbody, hbody', finish, hr, hq]

/-- The machine after a received byte was accepted by the routed channel (43 R141). -/
def State.received (s : State) (ch : Chan) : State :=
  let u := s.setChan ch { s.chan ch with rxflag := false }
  u.setChan (s.params.route ch) ((u.chan (s.params.route ch)).transmit s.params.C (s.chan ch).rxbuf)

section received
variable (s : State) (ch : Chan)

@[simp] theorem received_params : (s.received ch).params = s.params := by simp [State.received]
@[simp] theorem received_halt : (s.received ch).halt = s.halt := by simp [State.received]
@[simp] theorem received_free : (s.received ch).free = s.free := by simp [State.received]

/-- RXVEC's body for a pending channel whose routed queue has room. -/
theorem dispatchIfPending_room {s : State} {ch : Chan} (q : Response) (hrun : s.halt = false)
    (hflag : (s.chan ch).rxflag = true) (hroom : (s.chan (s.params.route ch)).count.toNat ≠ s.params.C) :
    dispatchIfPending ch s q = .ok (s.received ch, q) := by
  have hcount := (read_chan_queue ch (s.params.route ch) s).2.2
  simp only [dispatchIfPending, rxRequest_of_pending hrun hflag, if_true, dispatch_pending ch s hflag]
  rw [xmit_eq_transmit _ _ (by rwa [hcount, setChan_params]), setChan_params]
  rfl

end received

/-- RXVEC with both channels pending and room in two different routed queues (43 R142). -/
theorem exec_rxvec_room {s : State} (hrun : s.halt = false) (hflag : ∀ ch, (s.chan ch).rxflag = true)
    (hroutes : s.params.route .c0 ≠ s.params.route .c1) (hroom : ∀ ch, (s.chan ch).count.toNat ≠ s.params.C) :
    exec .rxvec s = .next (((s.received .c0).received .c1).respond .done) := by
  have hflag' : ((s.received .c0).chan .c1).rxflag = true := by
    cases hr : s.params.route .c0 <;> simp [State.received, hr, hflag]
  have hroom' : ((s.received .c0).chan ((s.received .c0).params.route .c1)).count.toNat ≠
      (s.received .c0).params.C := by
    rw [received_params, State.received, chan_setChan_ne _ _ _ _ hroutes.symm, (read_chan_queue _ _ _).2.2]
    exact hroom _
  rw [exec_rxvec_of_pending hrun (hflag .c0), serveReceivers,
    dispatchIfPending_room .done hrun (hflag .c0) (hroom _)]
  simp only [dispatchIfPending_room .done ((received_halt s .c0).trans hrun) hflag' hroom', finish]

/-- Settles O16: the wiring is echo or relay on both channels, and in either each byte finds its queue as it was. -/
theorem rxvecQueuesBothBytes : Obligations.RxvecQueuesBothBytes := by
  intro s hrun hflag hroutes hroom
  have hrxvec := exec_rxvec_room hrun hflag hroutes hroom
  refine ⟨_, hrxvec, rfl, by simpa using hrun, by simp, exec_surroundings hrxvec, ?_⟩
  cases h0 : s.params.route .c0 <;> cases h1 : s.params.route .c1
  case c0.c0 | c1.c1 => exact absurd (h0.trans h1.symm) hroutes
  case c0.c1 | c1.c0 => rintro (_ | _) <;> simp [State.received, Channel.transmit, Channel.enqueue, h0, h1]

end Sys2Proof.Machine

/-! Where the flags and registers of a channel can change, and what an operation on one channel does not look at. -/

namespace Sys2Proof.Machine

/-! ### The other channel -/

section independence
variable (ch : Chan) (s : State) (y : Channel)

/-- The same machine with the other channel replaced. -/
def State.swapOther (s : State) (ch : Chan) (y : Channel) : State := s.setChan ch.other y

@[simp] theorem swapOther_chan : (s.swapOther ch y).chan ch = s.chan ch := by cases ch <;> rfl
@[simp] theorem swapOther_params : (s.swapOther ch y).params = s.params := setChan_params _ _ _
@[simp] theorem swapOther_halt : (s.swapOther ch y).halt = s.halt := setChan_halt _ _ _
@[simp] theorem swapOther_free : (s.swapOther ch y).free = s.free := setChan_free _ _ _
@[simp] theorem swapOther_respond (r : Response) :
    (s.swapOther ch y).respond r = (s.respond r).swapOther ch y := (setChan_respond _ _ _ _).symm
@[simp] theorem swapOther_setHalt (h : Bool) :
    (s.swapOther ch y).setHalt h = (s.setHalt h).swapOther ch y := (setChan_setHalt _ _ _ _).symm
@[simp] theorem swapOther_setFree (n : Nat) :
    (s.swapOther ch y).setFree n = (s.setFree n).swapOther ch y := (setChan_setFree _ _ _ _).symm
@[simp] theorem swapOther_setChan (x : Channel) :
    (s.swapOther ch y).setChan ch x = (s.setChan ch x).swapOther ch y := by cases ch <;> rfl
@[simp] theorem swapOther_txRequest : txRequest (s.swapOther ch y) ch = txRequest s ch := by
  simp only [txRequest, globalEnable, swapOther_halt, swapOther_chan]
@[simp] theorem swapOther_raiseQueueOverflow :
    raiseQueueOverflow ch (s.swapOther ch y) = (raiseQueueOverflow ch s).swapOther ch y := by
  simp only [raiseQueueOverflow_eq, swapOther_chan, swapOther_setChan, swapOther_halt, swapOther_params,
    swapOther_setHalt]

end independence

section independentOperations
variable {ch : Chan} {s t : State} (y : Channel)

/-- A halted machine answers whatever the other channel holds. -/
theorem exec_swapOther_halted {i : Instr} (hi : i ≠ .reset) (htxdone : ∀ ch, i ≠ .txdone ch)
    (hrxarr : ∀ ch b, i ≠ .rxarr ch b) (hhalt : s.halt = true) :
    exec i (s.swapOther ch y) = .next ((s.respond .halted).swapOther ch y) := by
  rw [exec_halted (by rwa [swapOther_halt]) hi htxdone hrxarr, swapOther_respond]

theorem exec_push_swapOther {b : Byte} (h : exec (.push ch b) s = .next t) :
    exec (.push ch b) (s.swapOther ch y) = .next (t.swapOther ch y) := by
  rcases exec_push_outcomes h with ⟨hhalt, rfl⟩ | ⟨hrun, hfull, rfl⟩ | ⟨hrun, hroom, rfl⟩
  · exact exec_swapOther_halted y (by simp) (by simp) (by simp) hhalt
  · rw [exec_push_full (by simpa using hrun) b (by simpa using hfull), swapOther_respond]
  · rw [exec_push_room (by simpa using hrun) b (by simpa using hroom), swapOther_chan, swapOther_params,
      swapOther_setChan, swapOther_respond]

theorem exec_pop_swapOther (h : exec (.pop ch) s = .next t) :
    exec (.pop ch) (s.swapOther ch y) = .next (t.swapOther ch y) := by
  rcases exec_pop_outcomes h with ⟨hhalt, rfl⟩ | ⟨hrun, hcount, rfl⟩ | ⟨v, hrun, hcount, hhead, hfront, rfl⟩
  · exact exec_swapOther_halted y (by simp) (by simp) (by simp) hhalt
  · rw [exec_pop_empty (by simpa using hrun) (by simpa using hcount), swapOther_respond]
  · rw [exec_pop_some (v := v) (by simpa using hrun) (by simpa using hcount) (by simpa using hhead)
      (by simpa using hfront), swapOther_chan, swapOther_params, swapOther_setChan, swapOther_respond]

theorem exec_xmit_swapOther {b : Byte} (h : exec (.xmit ch b) s = .next t) :
    exec (.xmit ch b) (s.swapOther ch y) = .next (t.swapOther ch y) := by
  rcases exec_xmit_outcomes h with ⟨hhalt, rfl⟩ | ⟨hrun, hfull, rfl⟩ | ⟨hrun, hroom, rfl⟩
  · exact exec_swapOther_halted y (by simp) (by simp) (by simp) hhalt
  · rw [exec_xmit_full b (by simpa using hrun) (by simpa using hfull), swapOther_raiseQueueOverflow,
      swapOther_respond]
  · rw [exec_xmit_room (by simpa using hrun) b (by simpa using hroom), swapOther_chan, swapOther_params,
      swapOther_setChan, swapOther_respond]

theorem exec_txc_swapOther (h : exec (.txc ch) s = .next t) :
    exec (.txc ch) (s.swapOther ch y) = .next (t.swapOther ch y) := by
  rcases exec_txc_outcomes h with ⟨hhalt, rfl⟩ | ⟨hrun, hidle, rfl⟩ |
    ⟨hrun, hreq, r, x, ⟨hcount, rfl, rfl⟩ | ⟨v, hcount, hhead, hfront, rfl, rfl⟩, rfl⟩
  · exact exec_swapOther_halted y (by simp) (by simp) (by simp) hhalt
  · rw [exec_txc_notReady (by simpa using hrun) (by simp [hidle]), swapOther_respond]
  · rw [exec_txc_empty (by simpa using hrun) (by simpa using hreq) (by simpa using hcount), swapOther_chan,
      swapOther_setChan, swapOther_respond]
  · rw [exec_txc_some (v := v) (by simpa using hrun) (by simpa using hreq) (by simpa using hcount)
      (by simpa using hhead) (by simpa using hfront), swapOther_chan, swapOther_params, swapOther_setChan,
      swapOther_respond]

theorem exec_size_swapOther (h : exec (.size ch) s = .next t) :
    exec (.size ch) (s.swapOther ch y) = .next (t.swapOther ch y) := by
  rcases exec_size_cases h with ⟨hhalt, rfl⟩ | ⟨hrun, rfl⟩
  · exact exec_swapOther_halted y (by simp) (by simp) (by simp) hhalt
  · rw [exec_size_running _ _ (by simpa using hrun), swapOther_chan, swapOther_respond]

theorem exec_txdone_swapOther (h : exec (.txdone ch) s = .next t) :
    exec (.txdone ch) (s.swapOther ch y) = .next (t.swapOther ch y) := by
  rw [exec_txdone_next h, txdoneSetsTheCompletionFlag, swapOther_chan, swapOther_setChan, swapOther_respond]

/-- The free choice of an overrun is the one the machine numbers, whatever the other channel holds. -/
theorem exec_rxarr_swapOther {b : Byte} (h : exec (.rxarr ch b) s = .next t) :
    exec (.rxarr ch b) (s.swapOther ch y) = .next (t.swapOther ch y) := by
  simp only [exec, execRxarr, swapOther_chan, swapOther_free, swapOther_setChan, swapOther_setFree] at h ⊢
  split at h
  case isTrue hflag => rw [if_pos hflag, answer_next h, answer, swapOther_respond]
  case isFalse hflag => rw [if_neg hflag, answer_next h, answer, swapOther_respond]

end independentOperations

/-- No operation of the list has an effect on the other channel. -/
theorem no_effect_on_other {s : State} {ch : Chan} {b : Byte} {i : Instr}
    (hi : i ∈ [.push ch b, .pop ch, .size ch, .xmit ch b, .txc ch, .txdone ch, .rxarr ch b]) (x z : Channel) :
    ¬ ChannelEffect i s ch.other x z := by
  have hne : ch.other ≠ ch := Chan_other_ne ch
  intro h
  cases h with
  | push hop | pop hop | complete hop | arrive hop =>
    subst hop
    simp [hne] at hi
  | transmit htx | overflow htx =>
    rcases htx with ⟨b', rfl⟩ | ⟨src, rfl, -⟩ | ⟨rfl, -⟩ <;> simp [hne] at hi
  | send hserves | disarm hserves => rcases hserves with rfl | rfl <;> simp [hne] at hi
  | read hreceives => rcases hreceives with rfl | rfl <;> simp at hi

/-- Settles O30: no effect falls on the other channel, and each operation's equation reads the channel, the parameters
and the counter of free choices alone. -/
theorem channelsAreIndependent : Obligations.ChannelsAreIndependent := by
  intro s u ch b i hi hu t h
  have hreset : i ≠ .reset := by
    rintro rfl
    simp at hi
  refine ⟨((exec_effects hreset h).channel ch.other).eq_of_none (no_effect_on_other hi), ?_⟩
  rw [hu, chan_setChan_same]
  simp only [List.mem_cons, List.not_mem_nil, or_false] at hi
  rcases hi with rfl | rfl | rfl | rfl | rfl | rfl | rfl
  · exact exec_push_swapOther _ h
  · exact exec_pop_swapOther _ h
  · exact exec_size_swapOther _ h
  · exact exec_xmit_swapOther _ h
  · exact exec_txc_swapOther _ h
  · exact exec_txdone_swapOther _ h
  · exact exec_rxarr_swapOther _ h

/-! ### The overflow flags -/

/-- RXVEC's body halts a running machine only by an overflow in FAILSTOP mode (60 R170). -/
theorem dispatchIfPending_halts {s t : State} {ch : Chan} {q r : Response} (hrun : s.halt = false)
    (h : dispatchIfPending ch s q = .ok (t, r)) (hhalt : t.halt = true) :
    s.params.ovfMode = .failstop ∧ r = .overflow ∧
      ∃ c, (t.chan c).count.toNat = s.params.C ∧ (t.chan c).ovf = true := by
  rcases dispatchIfPending_cases h with ⟨-, rfl, -⟩ | ⟨-, -, a, ha, rfl⟩
  · simp [hrun] at hhalt
  · obtain ⟨hmode, rfl, hfull, hovf⟩ := xmit_halts ha (by simpa using hrun) hhalt
    exact ⟨by simpa using hmode, if_pos rfl, _, by simpa using hfull, hovf⟩

/-- Only an overflow in FAILSTOP mode halts a running machine (10_state R30). -/
theorem exec_halts {i : Instr} {s t : State} (h : exec i s = .next t) (hrun : s.halt = false) (hhalt : t.halt = true) :
    s.params.ovfMode = .failstop ∧ t.rsp = some .overflow ∧
      ∃ ch, (t.chan ch).count.toNat = s.params.C ∧ (t.chan ch).ovf = true := by
  have hreset : i ≠ .reset := by
    rintro rfl
    simp [exec_reset_halt h] at hhalt
  have htx : ∃ ch, Transmits i s ch := by
    by_contra hno
    simp [(exec_effects hreset h).runs (not_exists.1 hno), hrun] at hhalt
  obtain ⟨ch, ⟨b, rfl⟩ | ⟨src, rfl, -⟩ | ⟨rfl, -⟩⟩ := htx
  · rcases exec_xmit_cases h with ⟨hh, -⟩ | ⟨-, u, r, hx, rfl⟩
    · simp [hrun] at hh
    · obtain ⟨hmode, rfl, hfull, hovf⟩ := xmit_halts hx hrun hhalt
      exact ⟨hmode, rfl, ch, by simpa using hfull, by simpa using hovf⟩
  · rcases exec_rxd_cases h with ⟨hh, -⟩ | ⟨-, -, rfl⟩ | ⟨-, -, u, r, hx, rfl⟩
    · simp [hrun] at hh
    · simp [hrun] at hhalt
    · obtain ⟨hmode, rfl, hfull, hovf⟩ := xmit_halts hx (by simpa using hrun) hhalt
      exact ⟨by simpa using hmode, rfl, _, by simpa using hfull, by simpa using hovf⟩
  · rcases exec_rxvec_cases h with ⟨hh, -⟩ | ⟨-, -, rfl⟩ | ⟨-, -, u, r, v, a, hu, hv, rfl⟩
    · simp [hrun] at hh
    · simp [hrun] at hhalt
    · cases hmid : u.halt with
      | true =>
        rw [dispatchIfPending_skip r (not_rxRequest (.inl hmid))] at hv
        cases hv
        obtain ⟨hmode, rfl, c, hc⟩ := dispatchIfPending_halts hrun hu hmid
        exact ⟨hmode, rfl, c, by simpa using hc⟩
      | false =>
        have hparams : u.params = s.params := ((Effects.refl .rxvec s).dispatchIfPending id hu).params
        obtain ⟨hmode, rfl, c, hc⟩ := dispatchIfPending_halts hmid hv hhalt
        rw [hparams] at hmode hc
        exact ⟨hmode, rfl, c, by simpa using hc⟩

/-- Settles O31: no effect clears `ovf` or `halt`. -/
theorem overflowFlagsAreSticky : Obligations.OverflowFlagsAreSticky := by
  intro i s t hi h
  have heff := exec_effects hi h
  exact ⟨fun ch => (heff.channel ch).ovf, heff.stays, exec_halts h⟩

/-! ### Arming and the transmit register -/

section registers
variable {i : Instr} {s : State} {ch : Chan} {x y : Channel}

theorem Transmits.not_serves (h : Transmits i s ch) (c : Chan) : ¬ Serves i c := by
  rcases h with ⟨b, rfl⟩ | ⟨src, rfl, -⟩ | ⟨rfl, -⟩ <;> simp [Serves]

theorem Transmits.ne_pop (h : Transmits i s ch) (c : Chan) : i ≠ .pop c := by
  rcases h with ⟨b, rfl⟩ | ⟨src, rfl, -⟩ | ⟨rfl, -⟩ <;> simp

theorem Serves.ne_txdone (h : Serves i ch) (c : Chan) : i ≠ .txdone c := by
  rcases h with rfl | rfl <;> simp

/-- What a transmission keeps of the channel it began with, so that it arms only a queue found empty. -/
structure ArmsIfEmpty (i : Instr) (s : State) (ch : Chan) (x y : Channel) : Prop where
  ok : y.Ok s.params.C
  grows : Transmits i s ch → x.count.toNat ≤ y.count.toNat
  armed : y.txIe = true → x.txIe = true ∨ x.count.toNat = 0 ∧ Transmits i s ch

theorem ChannelEffect.armsIfEmpty {z : Channel} (h : ChannelEffect i s ch y z) (hy : ArmsIfEmpty i s ch x y) :
    ArmsIfEmpty i s ch x z := by
  have hC := Params_C_le s.params
  obtain ⟨hok, hgrows, harmed⟩ := hy
  refine ⟨h.ok hok, fun hi => ?_, fun hz => ?_⟩
  · have hle := hgrows hi
    cases h with
    | push _ hroom => exact hle.trans (by rw [Channel.enqueue_count hC (hok.lt_of_ne hroom)]; omega)
    | transmit _ hroom =>
      exact hle.trans (by rw [Channel.transmit_count, Channel.enqueue_count hC (hok.lt_of_ne hroom)]; omega)
    | pop hpop => exact absurd hpop (hi.ne_pop ch)
    | send hserves => exact absurd hserves (hi.not_serves ch)
    | _ => exact hle
  · cases h with
    | transmit hi =>
      by_cases hempty : y.count.toNat = 0
      · exact .inr ⟨by have := hgrows hi; omega, hi⟩
      · exact harmed (by simpa [hempty] using hz)
    | disarm => simp at hz
    | _ => exact harmed hz

/-- A consumer disarms only a queue found empty: once it has sent a byte the peripheral is busy. -/
structure DisarmsIfEmpty (i : Instr) (ch : Chan) (x y : Channel) : Prop where
  untouched : Serves i ch → y.txflag = true → y.count = x.count
  disarmed : y.txIe = false → x.txIe = false ∨ x.count.toNat = 0 ∧ Serves i ch

theorem ChannelEffect.disarmsIfEmpty {z : Channel} (h : ChannelEffect i s ch y z) (hy : DisarmsIfEmpty i ch x y) :
    DisarmsIfEmpty i ch x z := by
  obtain ⟨huntouched, hdisarmed⟩ := hy
  refine ⟨fun hi hready => ?_, fun hz => ?_⟩
  · cases h with
    | push hpush => rcases hi with rfl | rfl <;> simp at hpush
    | transmit htx => exact absurd hi (htx.not_serves ch)
    | pop hpop => rcases hi with rfl | rfl <;> simp at hpop
    | send => simp at hready
    | complete hdone => exact absurd hdone (hi.ne_txdone ch)
    | _ => exact huntouched hi hready
  · cases h with
    | transmit =>
      rw [Channel.transmit_txIe] at hz
      split at hz
      · simp at hz
      · exact hdisarmed hz
    | disarm hi hready hcount => exact .inr ⟨huntouched hi hready ▸ hcount, hi⟩
    | _ => exact hdisarmed hz

/-- One consumer invocation writes at most one byte to the transmit register (42 R133). -/
structure SendsOnce (i : Instr) (ch : Chan) (x y : Channel) : Prop where
  untouched : Serves i ch → y.txflag = true → x.txflag = true
  log : y.txlog = x.txlog ∨ (Serves i ch ∧ x.txflag = true ∧ y.txflag = false ∧ ∃ v, y.txlog = x.txlog ++ [v])

theorem ChannelEffect.sendsOnce {z : Channel} (h : ChannelEffect i s ch y z) (hy : SendsOnce i ch x y) :
    SendsOnce i ch x z := by
  obtain ⟨huntouched, hlog⟩ := hy
  cases h with
  | send hi hready =>
    refine ⟨by simp, .inr ⟨hi, huntouched hi hready, rfl, ?_⟩⟩
    rcases hlog with hsame | ⟨-, -, hbusy, -⟩
    · exact ⟨_, by rw [Channel.send_txlog, hsame]⟩
    · simp [hready] at hbusy
  | complete hdone =>
    refine ⟨fun hi => absurd hdone (hi.ne_txdone ch), hlog.imp_right ?_⟩
    rintro ⟨hi, -⟩
    exact absurd hdone (hi.ne_txdone ch)
  | _ => exact ⟨huntouched, hlog⟩

end registers

/-- RESET disarms, so it never arms. -/
theorem exec_reset_txIe {s t : State} (h : exec .reset s = .next t) (ch : Chan) : (t.chan ch).txIe = false := by
  obtain ⟨rx, hrx⟩ := exec_reset_chan h ch
  rw [hrx]
  rfl

/-- Settles O32: kept by every effect, `ArmsIfEmpty` and `DisarmsIfEmpty` hold of the whole operation. -/
theorem armedAndDisarmedOnlyWhereSaid : Obligations.ArmedAndDisarmedOnlyWhereSaid := by
  intro i s t ch hs h
  by_cases hreset : i = .reset
  · subst hreset
    exact ⟨fun _ harmed => by simp [exec_reset_txIe h] at harmed, fun _ _ => .inl rfl⟩
  · have heff := (exec_effects hreset h).channel ch
    refine ⟨fun hoff hon => ?_, fun hon hoff => .inr ?_⟩
    · obtain ⟨-, -, harmed⟩ := heff.preserve (P := ArmsIfEmpty i s ch (s.chan ch))
        (fun _ _ he hx => he.armsIfEmpty hx) ⟨hs.ok ch, fun _ => le_rfl, .inl⟩
      rcases harmed hon with hx | ⟨hempty, hi⟩
      · simp [hoff] at hx
      · exact ⟨hempty, hi.imp_right (Or.imp_right And.left)⟩
    · obtain ⟨-, hdisarmed⟩ := heff.preserve (P := DisarmsIfEmpty i ch (s.chan ch))
        (fun _ _ he hx => he.disarmsIfEmpty hx) ⟨fun _ _ => rfl, .inl⟩
      rcases hdisarmed hoff with hx | hdone
      · simp [hon] at hx
      · exact hdone

/-- Settles O33: kept by every effect, `SendsOnce` holds of the whole operation. -/
theorem transmitRegisterWrittenOnlyWhenReady : Obligations.TransmitRegisterWrittenOnlyWhenReady := by
  intro i s t ch hreset h
  exact (((exec_effects hreset h).channel ch).preserve (P := SendsOnce i ch (s.chan ch))
    (fun _ _ he hx => he.sendsOnce hx) ⟨fun _ => id, .inl rfl⟩).log

/-! ### Armed non-empty queues -/

/-- A non-empty queue is armed; `served_iff` ties it to `Served`. -/
def Channel.Served (x : Channel) : Prop := 0 < x.count.toNat → x.txIe = true

theorem served_iff (s : State) (ch : Chan) : Served s ch ↔ (s.chan ch).Served := Iff.rfl

theorem ChannelEffect.served {i : Instr} {s : State} {ch : Chan} {x y : Channel} (h : ChannelEffect i s ch x y)
    (hpush : ∀ b, i ≠ .push ch b) (hx : x.Served) : y.Served := by
  cases h with
  | push hi => exact absurd hi (hpush _)
  | transmit =>
    intro _
    rw [Channel.transmit_txIe]
    split
    · rfl
    · exact hx (by omega)
  | pop _ hcount => exact fun _ => hx (Nat.pos_of_ne_zero hcount)
  | send _ _ hcount => exact fun _ => hx (Nat.pos_of_ne_zero hcount)
  | disarm _ _ hcount => exact fun hpos => absurd hcount hpos.ne'
  | _ => exact hx

/-- Settles O38: only a direct PUSH queues without arming, and only an empty queue is disarmed. -/
theorem nonEmptyQueueStaysArmed : Obligations.NonEmptyQueueStaysArmed := by
  intro i s t ch hs hpush h
  by_cases hreset : i = .reset
  · subst hreset
    obtain ⟨rx, hrx⟩ := exec_reset_chan h ch
    rw [served_iff, hrx]
    intro hpos
    simp [Channel.resetWith] at hpos
  · exact ((exec_effects hreset h).channel ch).preserve (P := Channel.Served) (fun _ _ he => he.served hpush) hs

end Sys2Proof.Machine

/-! The queue as a sequence: what each operation does to the contents and to the history of a channel. -/

namespace Sys2Proof.Machine

/-- Settles O40: an accepted byte goes to the end of the contents, and POP takes their first. -/
theorem queueIsFirstInFirstOut : Obligations.QueueIsFirstInFirstOut := by
  intro s t ch hs
  have hC := Params_C_le s.params
  have hok := hs.ok ch
  refine ⟨fun b h hrsp => ?push, fun v h hrsp => ?pop⟩
  case push =>
    rcases exec_push_outcomes h with ⟨-, rfl⟩ | ⟨-, -, rfl⟩ | ⟨-, hroom, rfl⟩
    · simp at hrsp
    · simp at hrsp
    · simp [contents_eq, Channel.contents_enqueue hC (hok.lt_of_ne hroom)]
  case pop =>
    rcases exec_pop_outcomes h with ⟨-, rfl⟩ | ⟨-, -, rfl⟩ | ⟨u, -, hcount, hhead, hfront, rfl⟩
    · simp at hrsp
    · simp at hrsp
    · obtain rfl : u = v := by simpa using hrsp
      simp [contents_eq, Channel.contents_dequeue hC hhead hcount, hfront]

/-- Settles O41: a byte is accepted only below the capacity and answered only from a non-empty queue. -/
theorem countNeverWraps : Obligations.CountNeverWraps := by
  intro s t ch hs
  have hC := Params_C_le s.params
  have hok := hs.ok ch
  refine ⟨fun b i hi h hrsp => ?grows, fun v i hi h hrsp => ?shrinks⟩
  case grows =>
    rcases List.mem_pair.1 hi with rfl | rfl
    · rcases exec_push_outcomes h with ⟨-, rfl⟩ | ⟨-, -, rfl⟩ | ⟨-, hroom, rfl⟩
      · simp at hrsp
      · simp at hrsp
      · exact ⟨hok.lt_of_ne hroom, by simp [Channel.enqueue_count hC (hok.lt_of_ne hroom)]⟩
    · rcases exec_xmit_outcomes h with ⟨-, rfl⟩ | ⟨-, -, rfl⟩ | ⟨-, hroom, rfl⟩
      · simp at hrsp
      · simp at hrsp
      · exact ⟨hok.lt_of_ne hroom, by simp [Channel.enqueue_count hC (hok.lt_of_ne hroom)]⟩
  case shrinks =>
    rcases List.mem_pair.1 hi with rfl | rfl
    · rcases exec_pop_outcomes h with ⟨-, rfl⟩ | ⟨-, -, rfl⟩ | ⟨u, -, hcount, -, -, rfl⟩
      · simp at hrsp
      · simp at hrsp
      · simp only [respond_chan, chan_setChan_same, Channel.dequeue_count]
        omega
    · rcases exec_txc_outcomes h with ⟨-, rfl⟩ | ⟨-, -, rfl⟩ |
        ⟨-, -, r, y, ⟨-, rfl, -⟩ | ⟨u, hcount, -, -, -, rfl⟩, rfl⟩
      · simp at hrsp
      · simp at hrsp
      · simp at hrsp
      · simp only [respond_chan, chan_setChan_same, Channel.send_count, Channel.dequeue_count]
        omega

/-! ### Histories -/

section history
variable {i : Instr} {s : State} {ch : Chan} {x y : Channel}

/-- Without a push, a transmission or a pop on the channel the history stays. -/
theorem ChannelEffect.history_eq (h : ChannelEffect i s ch x y) (hpush : ∀ b, i ≠ .push ch b)
    (htx : ¬ Transmits i s ch) (hpop : i ≠ .pop ch) : y.history s.params.C = x.history s.params.C := by
  cases h with
  | push hi => exact absurd hi (hpush _)
  | transmit hi => exact absurd hi htx
  | pop hi => exact absurd hi hpop
  | send _ _ hcount hhead hfront => exact Channel.history_send (Params_C_le _) hhead hcount hfront
  | _ => rfl

/-- Without a pop on the channel the history only grows. -/
theorem ChannelEffect.history_prefix (h : ChannelEffect i s ch x y) (hpop : i ≠ .pop ch) (hx : x.Ok s.params.C) :
    x.history s.params.C <+: y.history s.params.C := by
  have hC := Params_C_le s.params
  cases h with
  | push _ hroom => exact ⟨_, (Channel.history_enqueue hC (hx.lt_of_ne hroom) _).symm⟩
  | transmit _ hroom => exact ⟨_, (Channel.history_transmit hC (hx.lt_of_ne hroom) _).symm⟩
  | pop hi => exact absurd hi hpop
  | send _ _ hcount hhead hfront => rw [Channel.history_send hC hhead hcount hfront]
  | _ => exact List.prefix_rfl

theorem exec_history_eq {t : State} (hreset : i ≠ .reset) (h : exec i s = .next t) (hpush : ∀ b, i ≠ .push ch b)
    (htx : ¬ Transmits i s ch) (hpop : i ≠ .pop ch) : history t ch = history s ch := by
  have heff := exec_effects hreset h
  rw [history_eq, history_eq, heff.params]
  exact (heff.channel ch).preserve (P := fun z => z.history s.params.C = (s.chan ch).history s.params.C)
    (fun _ _ he hz => (he.history_eq hpush htx hpop).trans hz) rfl

theorem exec_history_prefix {t : State} (hs : StateInv s) (hreset : i ≠ .reset) (h : exec i s = .next t)
    (hpop : i ≠ .pop ch) : history s ch <+: history t ch := by
  have heff := exec_effects hreset h
  rw [history_eq, history_eq, heff.params]
  exact ((heff.channel ch).preserve
    (P := fun z => z.Ok s.params.C ∧ (s.chan ch).history s.params.C <+: z.history s.params.C)
    (fun _ _ he hz => ⟨he.ok hz.1, hz.2.trans (he.history_prefix hpop hz.1)⟩) ⟨hs.ok ch, List.prefix_rfl⟩).2

end history

section received
variable {s t : State} {c ch : Chan} {b : Byte} {r q : Response}

/-- Taking QueueOverflow leaves every history. -/
theorem history_raiseQueueOverflow (c ch : Chan) (s : State) :
    history (raiseQueueOverflow c s) ch = history s ch := by
  have hparams : (raiseQueueOverflow c s).params = s.params := by simp [raiseQueueOverflow_eq]
  rw [history_eq, history_eq, hparams]
  exact raiseQueueOverflow_apply (Channel.history s.params.C) (fun _ => rfl) c ch s

/-- Reading the receive register leaves every history. -/
theorem history_read (c ch : Chan) (s : State) :
    history (s.setChan c { s.chan c with rxflag := false }) ch = history s ch := by
  rw [history_eq, history_eq, setChan_params]
  exact read_apply (Channel.history s.params.C) (fun _ => rfl) c ch s

/-- XMIT appends exactly an accepted byte, to the history of its channel alone. -/
theorem xmit_history (hok : (s.chan c).Ok s.params.C) (h : xmit c b s = (t, r)) (ch : Chan) :
    history t ch = history s ch ++ (if r = .accept ∧ c = ch then [some b] else []) := by
  by_cases hfull : (s.chan c).count.toNat = s.params.C
  · rw [xmit_full c b s hfull] at h
    cases h
    simp [history_raiseQueueOverflow]
  · rw [xmit_eq_transmit c b hfull] at h
    cases h
    simp only [history_eq, setChan_params, true_and]
    split
    case isTrue hc =>
      subst hc
      rw [chan_setChan_same, Channel.history_transmit (Params_C_le _) (hok.lt_of_ne hfull)]
    case isFalse hc => rw [chan_setChan_ne _ _ _ _ (Ne.symm hc), List.append_nil]

/-- A receive handler appends exactly the byte it read, when accepted, to the history of the routed channel. -/
theorem receive_history (hok : ∀ ch, (s.chan ch).Ok s.params.C)
    (h : xmit (s.params.route c) (s.chan c).rxbuf (s.setChan c { s.chan c with rxflag := false }) = (t, r))
    (ch : Chan) :
    history t ch = history s ch ++
      (if r = .accept ∧ s.params.route c = ch then [some (s.chan c).rxbuf] else []) := by
  have hok' : ((s.setChan c { s.chan c with rxflag := false }).chan (s.params.route c)).Ok
      (s.setChan c { s.chan c with rxflag := false }).params.C := by
    rw [setChan_params, chan_setChan]
    split
    · exact (hok c).of_queue rfl rfl rfl (hok c).busy_logged
    · exact hok _
  rw [xmit_history hok' h ch, history_read]

theorem exec_rxd_history (hs : StateInv s) (h : exec (.rxd c) s = .next t) (ch : Chan) :
    history t ch = history s ch ++
      (if t.rsp = some .accept ∧ s.params.route c = ch then [some (s.chan c).rxbuf] else []) := by
  rcases exec_rxd_cases h with ⟨-, rfl⟩ | ⟨-, -, rfl⟩ | ⟨-, -, u, r, hx, rfl⟩
  · simp [history_eq]
  · simp [history_eq]
  · have hu := receive_history hs.ok hx ch
    simpa [history_eq] using hu

theorem exec_xmit_history (hs : StateInv s) (h : exec (.xmit ch b) s = .next t) :
    history t ch = history s ch ++ (if t.rsp = some .accept then [some b] else []) := by
  rcases exec_xmit_cases h with ⟨-, rfl⟩ | ⟨-, u, r, hx, rfl⟩
  · simp [history_eq]
  · have hu := xmit_history (hs.ok ch) hx ch
    simpa [history_eq] using hu

/-- The byte pending on `c`, if it is routed to `ch`. -/
def pendingFor (s : State) (c ch : Chan) : List Byte :=
  if s.params.route c = ch ∧ (s.chan c).rxflag = true then [(s.chan c).rxbuf] else []

/-- RXVEC's body for one channel queues its pending byte or nothing, and the byte when the response stays DONE. The
machine may have halted in the body before, which then answered OVERFLOW. -/
theorem dispatchIfPending_history (hok : ∀ ch, (s.chan ch).Ok s.params.C) (hq : s.halt = true → q = .overflow)
    (h : dispatchIfPending c s q = .ok (t, r)) (ch : Chan) :
    ∃ accepted : List Byte, accepted.Sublist (pendingFor s c ch) ∧
      (r = .done → q = .done ∧ accepted = pendingFor s c ch) ∧
      history t ch = history s ch ++ accepted.map some := by
  rcases dispatchIfPending_cases h with ⟨hreq, rfl, rfl⟩ | ⟨-, hflag, a, ha, rfl⟩
  · refine ⟨[], List.nil_sublist _, fun hr => ⟨hr, ?_⟩, by simp⟩
    have hrun : ¬ t.halt = true := fun hhalt => by simp [hq hhalt] at hr
    have hidle : ¬ (t.chan c).rxflag = true := fun hf => by simp [(rxRequest_iff t c).2 ⟨hrun, hf⟩] at hreq
    simp [pendingFor, hidle]
  · have hhist := receive_history hok ha ch
    rcases xmit_response ha with rfl | rfl
    · refine ⟨pendingFor s c ch, List.Sublist.refl _, fun hr => ⟨by simpa using hr, rfl⟩, ?_⟩
      rw [hhist, pendingFor]
      by_cases hroute : s.params.route c = ch <;> simp [hroute, hflag]
    · exact ⟨[], List.nil_sublist _, fun hr => by simp at hr, by simpa using hhist⟩

/-- RXVEC's body for one channel leaves the receive register of the other. -/
theorem dispatchIfPending_other (h : dispatchIfPending c s q = .ok (t, r)) :
    (t.chan c.other).rxflag = (s.chan c.other).rxflag ∧ (t.chan c.other).rxbuf = (s.chan c.other).rxbuf := by
  rcases dispatchIfPending_cases h with ⟨-, rfl, -⟩ | ⟨-, -, a, ha, -⟩
  · exact ⟨rfl, rfl⟩
  · exact ⟨(receive_rxflag ha).2, receive_rxbuf ha _⟩

theorem exec_rxvec_history (hs : StateInv s) (h : exec .rxvec s = .next t) (ch : Chan) :
    ∃ accepted : List Byte, accepted.Sublist (pendingFor s .c0 ch ++ pendingFor s .c1 ch) ∧
      (t.rsp = some .done → accepted = pendingFor s .c0 ch ++ pendingFor s .c1 ch) ∧
      history t ch = history s ch ++ accepted.map some := by
  rcases exec_rxvec_cases h with ⟨-, rfl⟩ | ⟨-, -, rfl⟩ | ⟨hrun, -, u, r, v, a, hu, hv, rfl⟩
  · exact ⟨[], List.nil_sublist _, by simp, by simp [history_eq]⟩
  · exact ⟨[], List.nil_sublist _, by simp, by simp [history_eq]⟩
  · have heff := (Effects.refl .rxvec s).dispatchIfPending id hu
    have hpending : pendingFor u .c1 ch = pendingFor s .c1 ch := by
      obtain ⟨hflag, hbuf⟩ := dispatchIfPending_other hu
      rw [Chan.other] at hflag hbuf
      rw [pendingFor, pendingFor, heff.params, hflag, hbuf]
    obtain ⟨first, hfirst, hdone₀, hhist₀⟩ :=
      dispatchIfPending_history hs.ok (fun hhalt => by simp [hrun] at hhalt) hu ch
    obtain ⟨second, hsecond, hdone₁, hhist₁⟩ :=
      dispatchIfPending_history (heff.stateInv hs).ok (fun hhalt => (dispatchIfPending_halts hrun hu hhalt).2.1) hv ch
    rw [hpending] at hsecond hdone₁
    refine ⟨first ++ second, hfirst.append hsecond, fun hrsp => ?_, ?_⟩
    · obtain ⟨hr, rfl⟩ := hdone₁ (by simpa using hrsp)
      rw [(hdone₀ hr).2]
    · calc history (v.respond a) ch = history v ch := by simp [history_eq]
        _ = history s ch ++ first.map some ++ second.map some := by rw [hhist₁, hhist₀]
        _ = history s ch ++ (first ++ second).map some := by rw [List.map_append, List.append_assoc]

end received

/-- Settles O39: accepted bytes are appended by XMIT and by the receive handlers, and no other operation of the list
transmits, pushes or pops on the channel. -/
theorem historyGrowsByAcceptedBytes : Obligations.HistoryGrowsByAcceptedBytes := by
  refine fun s t ch hs => ⟨fun b h => exec_xmit_history hs h, fun src hroute h => ?echo, fun src hroute h => ?away,
    fun h => exec_rxvec_history hs h ch, fun d b i hi h => ?others⟩
  case echo => simpa [hroute] using exec_rxd_history hs h ch
  case away => simpa [hroute] using exec_rxd_history hs h ch
  case others =>
    have hne : ch.other ≠ ch := Chan_other_ne ch
    refine exec_history_eq ?_ h (fun b' => ?_) ?_ ?_
    · rintro rfl
      simp at hi
    · rintro rfl
      simp [hne.symm] at hi
    · rintro (⟨b', rfl⟩ | ⟨src, rfl, -⟩ | ⟨rfl, -⟩) <;> simp [hne.symm] at hi
    · rintro rfl
      simp [hne.symm] at hi

/-! ### Runs of pushes and pops -/

/-- The machine meets the invariant and runs. -/
structure Live (s : State) : Prop where
  inv : StateInv s
  runs : s.halt = false

theorem Live.next {i : Instr} {s t : State} (hs : Live s) (h : exec i s = .next t) (hrun : t.halt = false) : Live t :=
  ⟨exec_keeps_stateInv hs.inv h, hrun⟩

theorem execAll_cons {i : Instr} {rest : List Instr} {s u : State} (h : exec i s = .next u) :
    execAll (i :: rest) s = execAll rest u := by
  rw [execAll, h, andThen]

theorem execAll_append {is js : List Instr} {s u : State} (h : execAll is s = .next u) :
    execAll (is ++ js) s = execAll js u := by
  induction is generalizing s with
  | nil =>
    cases h
    rfl
  | cons i rest ih =>
    obtain ⟨v, hv, hrest⟩ := andThen_next h
    rw [List.cons_append, execAll_cons hv, ih hrest]

section sequences
variable {s : State} {ch : Chan}

/-- Pushes into a queue with room for all of them append their bytes. -/
theorem execAll_push (hs : Live s) (bs : List Byte) (hroom : (s.chan ch).count.toNat + bs.length ≤ s.params.C) :
    ∃ t, execAll (bs.map (Instr.push ch)) s = .next t ∧ Live t ∧ t.params = s.params ∧
      (t.chan ch).count.toNat = (s.chan ch).count.toNat + bs.length ∧ (t.chan ch).head = (s.chan ch).head ∧
      contents t ch = contents s ch ++ bs.map some := by
  induction bs generalizing s with
  | nil => exact ⟨s, rfl, hs, rfl, rfl, rfl, by simp⟩
  | cons b bs ih =>
    have hC := Params_C_le s.params
    rw [List.length_cons] at hroom
    have hlt : (s.chan ch).count.toNat < s.params.C := by omega
    have hpush := exec_push_room hs.runs b hlt.ne
    obtain ⟨u, hu⟩ : ∃ u, u = (s.setChan ch ((s.chan ch).enqueue s.params.C b)).respond .accept := ⟨_, rfl⟩
    rw [← hu] at hpush
    have hchan : u.chan ch = (s.chan ch).enqueue s.params.C b := by simp [hu]
    have hparams : u.params = s.params := exec_params hpush
    have hcount := Channel.enqueue_count hC hlt b
    obtain ⟨t, ht, hlive, hp, hc, hh, hcont⟩ := ih (hs.next hpush (by simpa [hu] using hs.runs))
      (by rw [hchan, hparams, hcount]; omega)
    refine ⟨t, (execAll_cons hpush).trans ht, hlive, hp.trans hparams, ?_, ?_, ?_⟩
    · rw [hc, hchan, hcount, List.length_cons]
      omega
    · rw [hh, hchan, Channel.enqueue_head]
    · rw [hcont, contents_eq, hchan, hparams, Channel.contents_enqueue hC hlt, contents_eq, List.map_cons,
        List.append_assoc, List.singleton_append]

/-- Pops of a queue that holds as many bytes take them off its front. -/
theorem execAll_pop (hs : Live s) (n : Nat) (hn : n ≤ (s.chan ch).count.toNat) :
    ∃ t, execAll (List.replicate n (Instr.pop ch)) s = .next t ∧
      (t.chan ch).count.toNat = (s.chan ch).count.toNat - n ∧
      (t.chan ch).head.toNat = ((s.chan ch).head.toNat + n) % s.params.C ∧
      contents t ch = (contents s ch).drop n := by
  induction n generalizing s with
  | zero =>
    have hhead := (hs.inv.ok ch).head_lt
    exact ⟨s, rfl, rfl, by rw [Nat.add_zero, Nat.mod_eq_of_lt hhead], rfl⟩
  | succ n ih =>
    have hC := Params_C_le s.params
    have hok := hs.inv.ok ch
    have hcount : (s.chan ch).count.toNat ≠ 0 := by omega
    obtain ⟨v, hv⟩ := hok.exists_front hC hcount
    have hpop := exec_pop_some hs.runs hcount hok.head_lt hv
    obtain ⟨u, hu⟩ : ∃ u, u = (s.setChan ch ((s.chan ch).dequeue s.params.C)).respond (.some v) := ⟨_, rfl⟩
    rw [← hu] at hpop
    have hchan : u.chan ch = (s.chan ch).dequeue s.params.C := by simp [hu]
    have hparams : u.params = s.params := exec_params hpop
    obtain ⟨t, ht, hc, hh, hcont⟩ := ih (hs.next hpop (by simpa [hu] using hs.runs))
      (by rw [hchan, Channel.dequeue_count]; omega)
    refine ⟨t, (execAll_cons hpop).trans ht, ?_, ?_, ?_⟩
    · rw [hc, hchan, Channel.dequeue_count]
      omega
    · rw [hh, hchan, hparams, Channel.dequeue_head hC (Params_C_pos _), Nat.mod_add_mod, Nat.add_assoc,
        Nat.add_comm 1 n]
    · rw [hcont, contents_eq, hchan, hparams, contents_eq, Channel.contents_dequeue hC hok.head_lt hcount,
        List.drop_succ_cons]

end sequences

/-- Settles O42: the pushes append, the pops take as many from the front. -/
theorem pushesThenPopsRoundTrip : Obligations.PushesThenPopsRoundTrip := by
  intro s ch bs hs hrun hroom
  obtain ⟨u, hu, hlive, hparams, hcount, hhead, hcont⟩ := execAll_push ⟨hs, hrun⟩ bs hroom
  obtain ⟨t, ht, hcount', hhead', hcont'⟩ := execAll_pop (ch := ch) hlive bs.length (by omega)
  refine ⟨t, (execAll_append hu).trans ht, BitVec.eq_of_toNat_eq ?_, ?_, ?_⟩
  · omega
  · rw [hhead', hhead, hparams]
  · rw [hcont', hcont]

/-- Settles O43: after `C` pushes into an empty queue it is full. -/
theorem oneByteTooManyIsRejected : Obligations.OneByteTooManyIsRejected := by
  intro s ch bs b hs hrun hempty hlen
  obtain ⟨t, ht, hlive, hparams, hcount, -, hcont⟩ := execAll_push ⟨hs, hrun⟩ (ch := ch) bs (by omega)
  refine ⟨t, ht, ?_, exec_push_full hlive.runs b (by rw [hparams]; omega)⟩
  rw [hcont, contents_eq, (Channel.contents_eq_nil_iff _ _).2 hempty, List.nil_append]

end Sys2Proof.Machine

/-! The transmit protocol of one channel: its states, the consumers, and draining a queue (42 R132 to R137). -/

namespace Sys2Proof.Machine

section txState
variable (s : State) (ch : Chan)

theorem txState_eq_idle_iff : txState s ch = .idle ↔ (s.chan ch).txIe = false ∧ (s.chan ch).count.toNat = 0 := by
  unfold txState
  split <;> simp_all

theorem txState_eq_armed_iff : txState s ch = .armed ↔ (s.chan ch).txIe = true ∧ (s.chan ch).count.toNat ≠ 0 := by
  unfold txState
  split <;> simp_all

theorem txState_eq_draining_iff :
    txState s ch = .draining ↔ (s.chan ch).txIe = true ∧ (s.chan ch).count.toNat = 0 := by
  unfold txState
  split <;> simp_all

theorem txState_eq_stranded_iff :
    txState s ch = .stranded ↔ (s.chan ch).txIe = false ∧ (s.chan ch).count.toNat ≠ 0 := by
  unfold txState
  split <;> simp_all

/-- The transmit state reads `tx_ie` and `count` alone. -/
theorem txState_congr {t : State} (hIe : (t.chan ch).txIe = (s.chan ch).txIe)
    (hcount : (t.chan ch).count = (s.chan ch).count) : txState t ch = txState s ch := by
  rw [txState, txState, hIe, hcount]

end txState

/-- A channel that is neither armed nor holds a byte is left by TXVEC (42 R132). -/
theorem Channel.Visited.eq_of_idle {C : Nat} {x y : Channel} (h : x.Visited C y) (hIe : x.txIe = false)
    (hcount : x.count.toNat = 0) : y = x := by
  rcases h with ⟨-, rfl⟩ | ⟨-, r, ⟨-, -, rfl⟩ | ⟨v, hne, -⟩⟩
  · rfl
  · rw [← hIe]
  · exact absurd hcount hne

section rows
variable {s t : State} {ch : Chan}

/-- From every state but Stranded an accepted XMIT leads to Armed. -/
theorem txState_of_accepted {b : Byte} (hs : StateInv s) (h : exec (.xmit ch b) s = .next t)
    (hrsp : t.rsp = some .accept) (hstate : txState s ch ≠ .stranded) : txState t ch = .armed := by
  rcases exec_xmit_outcomes h with ⟨-, rfl⟩ | ⟨-, -, rfl⟩ | ⟨-, hroom, rfl⟩
  · simp at hrsp
  · simp at hrsp
  · have hcount := Channel.enqueue_count (Params_C_le s.params) ((hs.ok ch).lt_of_ne hroom) b
    rw [ne_eq, txState_eq_stranded_iff] at hstate
    rw [txState_eq_armed_iff, respond_chan, chan_setChan_same, Channel.transmit_count, hcount,
      Channel.transmit_txIe]
    exact ⟨by split <;> simp_all, Nat.succ_ne_zero _⟩

theorem txState_of_overflowed {b : Byte} (h : exec (.xmit ch b) s = .next t) (hrsp : t.rsp = some .overflow) :
    txState t ch = txState s ch := by
  rcases exec_xmit_outcomes h with ⟨-, rfl⟩ | ⟨-, -, rfl⟩ | ⟨-, -, rfl⟩
  · simp at hrsp
  · exact txState_congr s ch (by simp [raiseQueueOverflow_eq]) (by simp [raiseQueueOverflow_eq])
  · simp at hrsp

/-- An enabled TXC consumes. -/
theorem exec_txc_consumed (hrun : s.halt = false) (h : exec (.txc ch) s = .next t)
    (hIe : (s.chan ch).txIe = true) (hready : (s.chan ch).txflag = true) :
    ∃ r, (s.chan ch).Consumed s.params.C r (t.chan ch) ∧ t.rsp = some r := by
  have hreq := txRequest_of_armed hrun hIe hready
  rcases exec_txc_outcomes h with ⟨hhalt, -⟩ | ⟨-, hno, -⟩ | ⟨-, -, r, y, hy, rfl⟩
  · simp [hrun] at hhalt
  · simp [hreq] at hno
  · exact ⟨r, by simpa using hy, rfl⟩

theorem txState_of_txc_armed (hrun : s.halt = false) (h : exec (.txc ch) s = .next t)
    (hstate : txState s ch = .armed) (hready : (s.chan ch).txflag = true) :
    txState t ch = if (s.chan ch).count.toNat = 1 then .draining else .armed := by
  obtain ⟨hIe, hcount⟩ := (txState_eq_armed_iff s ch).1 hstate
  obtain ⟨r, ⟨hzero, -⟩ | ⟨v, -, -, -, -, hsend⟩, -⟩ := exec_txc_consumed hrun h hIe hready
  · exact absurd hzero hcount
  · have hIe' : (t.chan ch).txIe = true := by rw [hsend, Channel.send_txIe, hIe]
    have hcount' : (t.chan ch).count.toNat = (s.chan ch).count.toNat - 1 := by
      rw [hsend, Channel.send_count, Channel.dequeue_count]
    split
    · exact (txState_eq_draining_iff t ch).2 ⟨hIe', by omega⟩
    · exact (txState_eq_armed_iff t ch).2 ⟨hIe', by omega⟩

theorem txState_of_txc_draining (hrun : s.halt = false) (h : exec (.txc ch) s = .next t)
    (hstate : txState s ch = .draining) (hready : (s.chan ch).txflag = true) : txState t ch = .idle := by
  obtain ⟨hIe, hcount⟩ := (txState_eq_draining_iff s ch).1 hstate
  obtain ⟨r, ⟨-, -, hdisarm⟩ | ⟨v, hne, -⟩, -⟩ := exec_txc_consumed hrun h hIe hready
  · rw [txState_eq_idle_iff, hdisarm]
    exact ⟨rfl, hcount⟩
  · exact absurd hcount hne

theorem exec_txc_idle (hrun : s.halt = false) (h : exec (.txc ch) s = .next t) (hstate : txState s ch = .idle) :
    t = s.respond .notReady := by
  obtain ⟨hIe, -⟩ := (txState_eq_idle_iff s ch).1 hstate
  have hreq : ¬ txRequest s ch = true := by simp [txRequest_iff, hIe]
  exact Host.Outcome.next.inj (h.symm.trans (exec_txc_notReady hrun hreq))

theorem exec_txvec_idle (h : exec .txvec s = .next t) (hstate : txState s ch = .idle) : t.chan ch = s.chan ch := by
  obtain ⟨hIe, hcount⟩ := (txState_eq_idle_iff s ch).1 hstate
  rcases exec_txvec_outcomes h with ⟨-, rfl⟩ | ⟨-, -, rfl⟩ | ⟨-, -, hvisited, -⟩
  · simp
  · simp
  · exact (hvisited ch).eq_of_idle hIe hcount

end rows

/-- Settles O44: a row each. -/
theorem transmitStateMachine : Obligations.TransmitStateMachine := fun _ _ _ hs hrun =>
  ⟨fun _ => txState_of_accepted hs, fun _ => txState_of_overflowed, txState_of_txc_armed hrun,
    txState_of_txc_draining hrun, exec_txc_idle hrun, exec_txvec_idle⟩

/-- TXC on an enabled channel completes as a visit by TXVEC does. -/
theorem exec_txc_of_consumed {s : State} {ch : Chan} {r : Response} {y : Channel} (hrun : s.halt = false)
    (hreq : txRequest s ch = true) (h : (s.chan ch).Consumed s.params.C r y) :
    exec (.txc ch) s = .next ((s.setChan ch y).respond r) := by
  rcases h with ⟨hcount, rfl, rfl⟩ | ⟨v, hcount, hhead, hfront, rfl, rfl⟩
  · exact exec_txc_empty hrun hreq hcount
  · exact exec_txc_some hrun hreq hcount hhead hfront

/-- Settles O45: an enabled channel is consumed by either handler; a flagged one that is not armed is empty, so TXVEC
disarms what is not armed. -/
theorem sharedVectorAgreesWithTxc : Obligations.SharedVectorAgreesWithTxc := by
  intro s t ch hrun hserved hirq h
  rcases exec_txvec_outcomes h with ⟨hhalt, -⟩ | ⟨-, hno, -⟩ | ⟨-, -, hvisited, -⟩
  · simp [hrun] at hhalt
  · simp [hirq] at hno
  · split
    case isTrue hreq =>
      obtain ⟨-, -, hready⟩ := (txRequest_iff s ch).1 hreq
      rcases hvisited ch with ⟨hbusy, -⟩ | ⟨-, r, hconsumed⟩
      · simp [hready] at hbusy
      · exact ⟨_, exec_txc_of_consumed hrun hreq hconsumed, by simp⟩
    case isFalse hreq =>
      rcases hvisited ch with ⟨-, hsame⟩ | ⟨hready, -⟩
      · exact hsame
      · have hIe : (s.chan ch).txIe = false := by
          by_contra hIe
          exact hreq (txRequest_of_armed hrun (by simpa using hIe) hready)
        have hcount : (s.chan ch).count.toNat = 0 := by
          by_contra hne
          simp [hserved ch (Nat.pos_of_ne_zero hne)] at hIe
        exact (hvisited ch).eq_of_idle hIe hcount

/-! ### Draining -/

section serve
variable {s : State} {ch : Chan}

/-- SERVE (30_encoding R87) of an armed channel consumes, with the peripheral ready. -/
theorem execAll_serve {r : Response} {y : Channel} (hrun : s.halt = false) (hIe : (s.chan ch).txIe = true)
    (h : ({ s.chan ch with txflag := true } : Channel).Consumed s.params.C r y) :
    execAll [.txdone ch, .txc ch] s = .next ((s.setChan ch y).respond r) := by
  obtain ⟨u, hu⟩ : ∃ u, u = (s.setChan ch { s.chan ch with txflag := true }).respond .done := ⟨_, rfl⟩
  have hchan : u.chan ch = { s.chan ch with txflag := true } := by simp [hu]
  have hrun' : u.halt = false := by simp [hu, hrun]
  have hreq : txRequest u ch = true := txRequest_of_armed hrun' (by simp [hchan, hIe]) (by simp [hchan])
  have htxc := exec_txc_of_consumed (y := y) (r := r) hrun' hreq (by simpa [hu] using h)
  have hfinal : (u.setChan ch y).respond r = (s.setChan ch y).respond r := by simp [hu, setChan_respond]
  rw [execAll_cons (txdoneSetsTheCompletionFlag ch s), ← hu, execAll_cons htxc, hfinal, execAll]

/-- Serving a channel that holds a byte transmits it. -/
theorem serve_some (hs : Live s) (hIe : (s.chan ch).txIe = true) (hcount : (s.chan ch).count.toNat ≠ 0) :
    ∃ t, execAll [.txdone ch, .txc ch] s = .next t ∧ Live t ∧ t.params = s.params ∧ (t.chan ch).txIe = true ∧
      (t.chan ch).count.toNat + 1 = (s.chan ch).count.toNat ∧ history t ch = history s ch := by
  have hC := Params_C_le s.params
  have hok := hs.inv.ok ch
  obtain ⟨v, hv⟩ := hok.exists_front hC hcount
  have hserve := execAll_serve (y := ({ s.chan ch with txflag := true } : Channel).send s.params.C v)
    hs.runs hIe (.inr ⟨v, hcount, hok.head_lt, hv, rfl, rfl⟩)
  refine ⟨_, hserve, ⟨kept_stateInv.execAll hs.inv hserve, by simp [hs.runs]⟩, by simp, by simp [hIe], ?_, ?_⟩
  · have hle : 1 ≤ (s.chan ch).count.toNat := Nat.pos_of_ne_zero hcount
    simp only [respond_chan, chan_setChan_same, Channel.send_count, Channel.dequeue_count]
    omega
  · simp only [history_eq, respond_chan, respond_params, setChan_params, chan_setChan_same]
    exact Channel.history_send (x := { s.chan ch with txflag := true }) hC hok.head_lt hcount hv

/-- Serving an armed empty channel disarms it. -/
theorem serve_empty (hs : Live s) (hIe : (s.chan ch).txIe = true) (hcount : (s.chan ch).count.toNat = 0) :
    ∃ t, execAll [.txdone ch, .txc ch] s = .next t ∧ txState t ch = .idle ∧ t.rsp = some .none ∧
      (t.chan ch).txlog = (s.chan ch).txlog := by
  refine ⟨_, execAll_serve hs.runs hIe (.inl ⟨hcount, rfl, rfl⟩), ?_, rfl, by simp⟩
  rw [txState_eq_idle_iff, respond_chan, chan_setChan_same]
  exact ⟨rfl, hcount⟩

/-- Serving as often as the channel holds bytes, or less often, transmits that many. -/
theorem serve_times (hs : Live s) (hIe : (s.chan ch).txIe = true) (n : Nat) (hn : n ≤ (s.chan ch).count.toNat) :
    ∃ t, execAll (List.replicate n [.txdone ch, .txc ch]).flatten s = .next t ∧ Live t ∧ (t.chan ch).txIe = true ∧
      (t.chan ch).count.toNat + n = (s.chan ch).count.toNat ∧ history t ch = history s ch := by
  induction n generalizing s with
  | zero => exact ⟨s, rfl, hs, hIe, rfl, rfl⟩
  | succ n ih =>
    obtain ⟨u, hu, hlive, -, hIe', hcount, hhist⟩ := serve_some hs hIe (by omega)
    obtain ⟨t, ht, hlive', hIe'', hcount', hhist'⟩ := ih hlive hIe' (by omega)
    refine ⟨t, ?_, hlive', hIe'', by omega, hhist'.trans hhist⟩
    rw [List.replicate_succ, List.flatten_cons, execAll_append hu, ht]

/-- With nothing queued, the history is the log. -/
theorem txlog_eq_history (hcount : (s.chan ch).count.toNat = 0) : (s.chan ch).txlog.map some = history s ch := by
  rw [history_eq, Channel.history, (Channel.contents_eq_nil_iff _ _).2 hcount, List.append_nil]

end serve

/-- Settles O46: `count` services empty the queue into the log, one more disarms. -/
theorem drainTransmitsEverything : Obligations.DrainTransmitsEverything := by
  intro s ch hs hrun hIe
  obtain ⟨u, hu, hlive, hIe', hcount, hhist⟩ := serve_times ⟨hs, hrun⟩ hIe _ le_rfl
  have hempty : (u.chan ch).count.toNat = 0 := by omega
  obtain ⟨t, ht, hidle, hrsp, hlog⟩ := serve_empty hlive hIe' hempty
  refine ⟨t, ?_, hidle, hrsp, ?_⟩
  · rw [List.replicate_succ', List.flatten_append]
    refine (execAll_append hu).trans ?_
    rw [List.flatten_singleton]
    exact ht
  · rw [hlog, txlog_eq_history hempty, hhist]

/-- Transmissions with room for all of them are appended to the history, and leave a served channel served. -/
theorem execAll_xmit {s : State} {ch : Chan} (hs : Live s) (hserved : Served s ch) (bs : List Byte)
    (hroom : (s.chan ch).count.toNat + bs.length ≤ s.params.C) :
    ∃ t, execAll (bs.map (Instr.xmit ch)) s = .next t ∧ Live t ∧ Served t ch ∧
      (t.chan ch).count.toNat = (s.chan ch).count.toNat + bs.length ∧
      history t ch = history s ch ++ bs.map some := by
  induction bs generalizing s with
  | nil => exact ⟨s, rfl, hs, hserved, rfl, by simp⟩
  | cons b bs ih =>
    rw [List.length_cons] at hroom
    have hlt : (s.chan ch).count.toNat < s.params.C := by omega
    have hxmit := exec_xmit_room hs.runs b hlt.ne
    obtain ⟨u, hu⟩ : ∃ u, u = (s.setChan ch ((s.chan ch).transmit s.params.C b)).respond .accept := ⟨_, rfl⟩
    rw [← hu] at hxmit
    have hcount : (u.chan ch).count.toNat = (s.chan ch).count.toNat + 1 := by
      simp [hu, Channel.enqueue_count (Params_C_le s.params) hlt]
    have hparams : u.params = s.params := exec_params hxmit
    have hserved' : Served u ch := nonEmptyQueueStaysArmed _ s u ch hserved (by simp) hxmit
    obtain ⟨t, ht, hlive, hserved'', hc, hhist⟩ := ih (hs.next hxmit (by simpa [hu] using hs.runs)) hserved'
      (by rw [hcount, hparams]; omega)
    refine ⟨t, (execAll_cons hxmit).trans ht, hlive, hserved'', ?_, ?_⟩
    · rw [hc, hcount, List.length_cons]
      omega
    · have hb := exec_xmit_history hs.inv hxmit
      rw [if_pos (by rw [hu, respond_rsp])] at hb
      rw [hhist, hb, List.map_cons, List.append_assoc, List.singleton_append]

/-- Settles O47: `n` services empty the queue the burst filled, and one more disarms. -/
theorem burstTakesOneInvocationMore : Obligations.BurstTakesOneInvocationMore := by
  intro s ch bs hs hrun hidle hne hlen
  obtain ⟨hIe, hcount⟩ := (txState_eq_idle_iff s ch).1 hidle
  have hserved : Served s ch := fun hpos => absurd hcount hpos.ne'
  obtain ⟨u, hu, hlive, hserved', hcount', hhist⟩ := execAll_xmit ⟨hs, hrun⟩ hserved bs (by omega)
  have hpos : 0 < bs.length := List.length_pos_of_ne_nil hne
  obtain ⟨t, ht, hlive', hIe', hcount'', hhist'⟩ :=
    serve_times hlive (hserved' (by omega)) bs.length (by omega)
  have hempty : (t.chan ch).count.toNat = 0 := by omega
  obtain ⟨w, hw, hidle', -, hlog⟩ := serve_empty hlive' hIe' hempty
  have hsent : (t.chan ch).txlog = (s.chan ch).txlog ++ bs := by
    refine List.map_injective_iff.2 (Option.some_injective Byte) ?_
    rw [txlog_eq_history hempty, hhist', hhist, ← txlog_eq_history hcount, List.map_append]
  exact ⟨t, w, (execAll_append hu).trans ht, (txState_eq_draining_iff t ch).2 ⟨hIe', hempty⟩, hsent, hw, hidle',
    hlog.trans hsent⟩

end Sys2Proof.Machine

/-! Infinite runs under fairness (42 R138, 70 R212): what stays until a handler is started, and that it is started. -/

namespace Sys2Proof.Machine

/-! ### What an operation keeps of a channel until its handler runs -/

section keeps
variable {i : Instr} {s t : State} {ch : Chan} {x y : Channel}

/-- The log only grows, and a ready peripheral stays ready while it does not. -/
structure LogGrows (x y : Channel) : Prop where
  log : x.txlog <+: y.txlog
  ready : y.txlog = x.txlog → x.txflag = true → y.txflag = true

theorem ChannelEffect.logGrows {z : Channel} (h : ChannelEffect i s ch y z) (hy : LogGrows x y) : LogGrows x z := by
  obtain ⟨hlog, hready⟩ := hy
  cases h with
  | send =>
    refine ⟨hlog.trans (List.prefix_append _ _), fun hsame => ?_⟩
    have hlen := hlog.length_le
    have := congrArg List.length hsame
    simp only [Channel.send_txlog, List.length_append, List.length_singleton] at this
    omega
  | complete => exact ⟨hlog, fun _ _ => rfl⟩
  | _ => exact ⟨hlog, hready⟩

theorem exec_logGrows (hreset : i ≠ .reset) (h : exec i s = .next t) (ch : Chan) :
    LogGrows (s.chan ch) (t.chan ch) :=
  ((exec_effects hreset h).channel ch).preserve (fun _ _ he hx => he.logGrows hx) ⟨List.prefix_rfl, fun _ => id⟩

/-- A pending byte stays pending, and stays the same byte, until a receive handler of the channel runs or another byte
arrives. -/
theorem exec_keeps_pending (hreset : i ≠ .reset) (h : exec i s = .next t) (hi : ¬ Receives i ch)
    (hflag : (s.chan ch).rxflag = true) :
    (t.chan ch).rxflag = true ∧ ((∀ b, i ≠ .rxarr ch b) → (t.chan ch).rxbuf = (s.chan ch).rxbuf) :=
  ((exec_effects hreset h).channel ch).preserve
    (P := fun z => z.rxflag = true ∧ ((∀ b, i ≠ .rxarr ch b) → z.rxbuf = (s.chan ch).rxbuf))
    (fun _ _ he hz => by
      cases he with
      | read hr => exact absurd hr hi
      | arrive harr => exact ⟨rfl, fun hno => absurd harr (hno _)⟩
      | _ => exact hz) ⟨hflag, fun _ => rfl⟩

/-- RXVEC's body reads the receive register of a pending channel. -/
theorem dispatchIfPending_clears {q r : Response} (hrun : s.halt = false) (hflag : (s.chan ch).rxflag = true)
    (h : dispatchIfPending ch s q = .ok (t, r)) : (t.chan ch).rxflag = false := by
  rcases dispatchIfPending_cases h with ⟨hreq, -⟩ | ⟨-, -, a, ha, -⟩
  · simp [rxRequest_of_pending hrun hflag] at hreq
  · exact (receive_rxflag ha).1

/-- On a machine that still runs after it, a receive handler has cleared its pending flag. -/
theorem exec_receives_clears (h : exec i s = .next t) (hi : Receives i ch) (hrun : t.halt = false)
    (hflag : (s.chan ch).rxflag = true) : (t.chan ch).rxflag = false := by
  have hreset : i ≠ .reset := by
    rintro rfl
    rcases hi with hi | hi <;> cases hi
  have hrun₀ : s.halt = false := by
    by_contra hhalt
    simp [(exec_effects hreset h).stays (by simpa using hhalt)] at hrun
  rcases hi with rfl | rfl
  · rcases exec_rxd_cases h with ⟨hhalt, -⟩ | ⟨-, hno, -⟩ | ⟨-, -, u, r, hx, rfl⟩
    · simp [hrun₀] at hhalt
    · simp [hflag] at hno
    · simpa using (receive_rxflag hx).1
  · have hirq : irqRx s = true := (irqRx_iff s).2 ⟨by simp [hrun₀], by cases ch <;> simp [hflag]⟩
    rcases exec_rxvec_cases h with ⟨hhalt, -⟩ | ⟨-, hno, -⟩ | ⟨-, -, u, r, v, a, hu, hv, rfl⟩
    · simp [hrun₀] at hhalt
    · simp [hirq] at hno
    · cases ch with
      | c0 => simpa [Chan.other, dispatchIfPending_clears hrun₀ hflag hu] using (dispatchIfPending_other hv).1
      | c1 =>
        have hflag' : (u.chan .c1).rxflag = true := by
          simpa [Chan.other, hflag] using (dispatchIfPending_other hu).1
        have hrun' : u.halt = false := by
          by_contra hhalt
          rw [dispatchIfPending_skip r (not_rxRequest (.inl (by simpa using hhalt)))] at hv
          cases hv
          exact hhalt hrun
        simpa using dispatchIfPending_clears hrun' hflag' hv

/-- A consumer of an enabled channel consumes, whichever of its two handlers it is. -/
theorem exec_serves_consumed (h : exec i s = .next t) (hi : Serves i ch) (hreq : txRequest s ch = true) :
    ∃ r, (s.chan ch).Consumed s.params.C r (t.chan ch) := by
  obtain ⟨hrun, hIe, hready⟩ := (txRequest_iff s ch).1 hreq
  rw [Bool.not_eq_true] at hrun
  rcases hi with rfl | rfl
  · obtain ⟨r, hr, -⟩ := exec_txc_consumed hrun h hIe hready
    exact ⟨r, hr⟩
  · have hirq : irqTx s = true := by
      cases ch <;> simp [irqTx, hreq]
    rcases exec_txvec_outcomes h with ⟨hhalt, -⟩ | ⟨-, hno, -⟩ | ⟨-, -, hvisited, -⟩
    · simp [hrun] at hhalt
    · simp [hirq] at hno
    · rcases hvisited ch with ⟨hbusy, -⟩ | ⟨-, r, hr⟩
      · simp [hready] at hbusy
      · exact ⟨r, hr⟩

end keeps

/-! ### Transmission -/

/-- The runs of 42 R138: legal and fair to the channel's consumer, begun in a good state, without halt, RESET, and
direct PUSH or POP on the channel. -/
structure Run.FairTo (r : Run) (ch : Chan) : Prop where
  legal : r.legal
  completes : r.completes ch
  serves : r.servesTransmit ch
  inv : StateInv (r.state 0)
  served : Served (r.state 0) ch
  runs : ∀ n, (r.state n).halt = false
  no_reset : ∀ n, r.op n ≠ .reset
  no_pop : ∀ n, r.op n ≠ .pop ch
  no_push : ∀ n b, r.op n ≠ .push ch b

namespace Run.FairTo
variable {r : Run} {ch : Chan} (h : r.FairTo ch)
include h

theorem stateInv (n : Nat) : StateInv (r.state n) := by
  induction n with
  | zero => exact h.inv
  | succ n ih => exact exec_keeps_stateInv ih (h.legal n)

theorem served_at (n : Nat) : Served (r.state n) ch := by
  induction n with
  | zero => exact h.served
  | succ n ih => exact nonEmptyQueueStaysArmed _ _ _ ch ih (h.no_push n) (h.legal n)

theorem history_prefix {n m : Nat} (hnm : n ≤ m) : history (r.state n) ch <+: history (r.state m) ch := by
  induction m, hnm using Nat.le_induction with
  | base => exact List.prefix_rfl
  | succ m _ ih => exact ih.trans (exec_history_prefix (h.stateInv m) (h.no_reset m) (h.legal m) (h.no_pop m))

theorem log_prefix {n m : Nat} (hnm : n ≤ m) :
    ((r.state n).chan ch).txlog <+: ((r.state m).chan ch).txlog := by
  induction m, hnm using Nat.le_induction with
  | base => exact List.prefix_rfl
  | succ m _ ih => exact ih.trans (exec_logGrows (h.no_reset m) (h.legal m) ch).log

/-- While nothing more is transmitted, a ready peripheral stays ready. -/
theorem ready_of_ready {n m : Nat} (hnm : n ≤ m) (hready : ((r.state n).chan ch).txflag = true)
    (hquiet : ∀ k, n ≤ k → ((r.state k).chan ch).txlog = ((r.state n).chan ch).txlog) :
    ((r.state m).chan ch).txflag = true := by
  induction m, hnm using Nat.le_induction with
  | base => exact hready
  | succ m hnm ih =>
    exact (exec_logGrows (h.no_reset m) (h.legal m) ch).ready
      ((hquiet (m + 1) (by omega)).trans (hquiet m hnm).symm) ih

/-- If nothing more is transmitted, the peripheral is ready from some time on. -/
theorem exists_ready (n : Nat)
    (hquiet : ∀ k, n ≤ k → ((r.state k).chan ch).txlog = ((r.state n).chan ch).txlog) :
    ∃ m, n ≤ m ∧ ∀ k, m ≤ k → ((r.state k).chan ch).txflag = true := by
  cases hflag : ((r.state n).chan ch).txflag with
  | true => exact ⟨n, le_rfl, fun k hk => h.ready_of_ready hk hflag hquiet⟩
  | false =>
    obtain ⟨m, hnm, hop⟩ := h.completes n hflag
    have hstep := h.legal m
    rw [hop] at hstep
    have hready : ((r.state (m + 1)).chan ch).txflag = true := by
      rw [exec_txdone_next hstep]
      simp
    refine ⟨m + 1, by omega, fun k hk => h.ready_of_ready hk hready fun j hj => ?_⟩
    exact (hquiet j (by omega)).trans (hquiet (m + 1) (by omega)).symm

/-- If nothing more is transmitted by a channel that stays armed, its consumer is invoked. -/
theorem exists_consumed (n : Nat)
    (hquiet : ∀ k, n ≤ k → ((r.state k).chan ch).txlog = ((r.state n).chan ch).txlog)
    (harmed : ∀ k, n ≤ k → ((r.state k).chan ch).txIe = true) :
    ∃ m a, n ≤ m ∧
      ((r.state m).chan ch).Consumed (r.state m).params.C a ((r.state (m + 1)).chan ch) := by
  obtain ⟨m, hnm, hready⟩ := h.exists_ready n hquiet
  have hreq (k : Nat) (hk : m ≤ k) : txRequest (r.state k) ch = true :=
    txRequest_of_armed (h.runs k) (harmed k (hnm.trans hk)) (hready k hk)
  obtain ⟨k, hk, hop⟩ := h.serves m hreq
  obtain ⟨a, ha⟩ := exec_serves_consumed (h.legal k) hop (hreq k hk)
  exact ⟨k, a, hnm.trans hk, ha⟩

omit h in
theorem length_history (n : Nat) :
    (history (r.state n) ch).length =
      ((r.state n).chan ch).txlog.length + ((r.state n).chan ch).count.toNat := by
  rw [history_eq, Channel.history, List.length_append, List.length_map, Channel.length_contents]

/-- A channel that holds a byte transmits one in the end. -/
theorem exists_transmitted (n : Nat) (hcount : ((r.state n).chan ch).count.toNat ≠ 0) :
    ∃ m, n ≤ m ∧ ((r.state n).chan ch).txlog.length < ((r.state m).chan ch).txlog.length := by
  by_contra hno
  have hquiet (k : Nat) (hk : n ≤ k) : ((r.state k).chan ch).txlog = ((r.state n).chan ch).txlog :=
    ((h.log_prefix hk).eq_of_length_le (Nat.le_of_not_lt fun hlt => hno ⟨k, hk, hlt⟩)).symm
  have hholds (k : Nat) (hk : n ≤ k) : ((r.state k).chan ch).count.toNat ≠ 0 := by
    have hlen := (h.history_prefix hk).length_le
    rw [length_history, length_history, hquiet k hk] at hlen
    omega
  obtain ⟨m, a, hnm, ⟨hempty, -⟩ | ⟨v, -, -, -, -, hsend⟩⟩ :=
    h.exists_consumed n hquiet fun k hk => h.served_at k (Nat.pos_of_ne_zero (hholds k hk))
  · exact hholds m hnm hempty
  · have hsame := (hquiet (m + 1) (by omega)).trans (hquiet m hnm).symm
    simp [hsend] at hsame

/-- Everything accepted by time `n` is transmitted: as long as some of it is queued, another byte goes out. -/
theorem exists_all_transmitted (n d k : Nat) (hnk : n ≤ k)
    (hd : (history (r.state n) ch).length ≤ ((r.state k).chan ch).txlog.length + d) :
    ∃ m, k ≤ m ∧ history (r.state n) ch <+: ((r.state m).chan ch).txlog.map some := by
  induction d generalizing k with
  | zero =>
    refine ⟨k, le_rfl, List.prefix_of_prefix_length_le (h.history_prefix hnk) ⟨_, (history_eq _ _).symm⟩ ?_⟩
    rwa [List.length_map]
  | succ d ih =>
    by_cases hempty : ((r.state k).chan ch).count.toNat = 0
    · refine ih k hnk ?_
      have hlen := (h.history_prefix hnk).length_le
      rw [length_history k, hempty] at hlen
      omega
    · obtain ⟨j, hkj, hlt⟩ := h.exists_transmitted k hempty
      obtain ⟨m, hjm, hm⟩ := ih j (by omega) (by omega)
      exact ⟨m, by omega, hm⟩

end Run.FairTo

/-- Settles O48: by induction on the number of accepted bytes still queued. -/
theorem everyAcceptedByteIsTransmitted : Obligations.EveryAcceptedByteIsTransmitted := by
  intro r ch hlegal hcompletes hserves hinv hserved hruns hops n
  have hfair : r.FairTo ch := ⟨hlegal, hcompletes, hserves, hinv, hserved, hruns, fun n => (hops n).1,
    fun n => (hops n).2.1, fun n => (hops n).2.2⟩
  exact hfair.exists_all_transmitted n (history (r.state n) ch).length n le_rfl (Nat.le_add_left _ _)

namespace Run.FairTo
variable {r : Run} {ch : Chan} (h : r.FairTo ch) (hno : ∀ n, ¬ Transmits (r.op n) (r.state n) ch)
include h hno

/-- Without transmissions on the channel the history stays. -/
theorem history_eq_start (n : Nat) : history (r.state n) ch = history (r.state 0) ch := by
  induction n with
  | zero => rfl
  | succ n ih => exact (exec_history_eq (h.no_reset n) (h.legal n) (h.no_push n) (hno n) (h.no_pop n)).trans ih

/-- Without transmissions on the channel its queue is empty from some time on, and its log stays. -/
theorem exists_drained : ∃ m, ∀ k, m ≤ k → ((r.state k).chan ch).count.toNat = 0 ∧
    ((r.state k).chan ch).txlog = ((r.state m).chan ch).txlog := by
  obtain ⟨m, -, hm⟩ := h.exists_all_transmitted 0 _ 0 le_rfl (Nat.le_add_left _ _)
  refine ⟨m, fun k hk => ?_⟩
  have hsent := hm.length_le
  rw [List.length_map, ← h.history_eq_start hno k, length_history] at hsent
  have hgrown := (h.log_prefix hk).length_le
  exact ⟨by omega, ((h.log_prefix hk).eq_of_length_le (by omega)).symm⟩

/-- Once empty, an armed channel is disarmed by its next consumer invocation. -/
theorem exists_idle : ∃ m, txState (r.state m) ch = .idle := by
  obtain ⟨n, hn⟩ := h.exists_drained hno
  by_contra hnever
  have harmed (k : Nat) (hk : n ≤ k) : ((r.state k).chan ch).txIe = true := by
    by_contra hIe
    exact hnever ⟨k, (txState_eq_idle_iff _ _).2 ⟨by simpa using hIe, (hn k hk).1⟩⟩
  obtain ⟨m, a, hnm, ⟨-, -, hdisarm⟩ | ⟨v, hcount, -⟩⟩ := h.exists_consumed n (fun k hk => (hn k hk).2) harmed
  · have hIe := harmed (m + 1) (by omega)
    simp [hdisarm] at hIe
  · exact hcount (hn m hnm).1

end Run.FairTo

/-- Settles O49: what is queued is transmitted, and then the consumer finds the queue empty. -/
theorem channelReturnsToIdle : Obligations.ChannelReturnsToIdle := by
  intro r ch hlegal hcompletes hserves hinv hserved hruns hops
  have hfair : r.FairTo ch := ⟨hlegal, hcompletes, hserves, hinv, hserved, hruns, fun n => (hops n).1,
    fun n => (hops n).2.1, fun n b => ((hops n).2.2.1 b).1⟩
  refine hfair.exists_idle fun n => ?_
  obtain ⟨-, -, hwords, hrxd, hrxvec⟩ := hops n
  rintro (⟨b, hxmit⟩ | ⟨src, hop, hroute⟩ | ⟨hop, src, hflag, hroute⟩)
  · exact (hwords b).2 hxmit
  · exact hrxd src hop hroute
  · exact hrxvec hop src hflag hroute

/-! ### Reception -/

section reception
variable {r : Run} {ch : Chan} (hlegal : r.legal) (hreset : ∀ n, r.op n ≠ .reset)
include hlegal hreset

/-- A pending byte stays until a receive handler of the channel runs. -/
theorem pending_until_received {n m : Nat} (hnm : n ≤ m) (hflag : ((r.state n).chan ch).rxflag = true)
    (hno : ∀ k, n ≤ k → k < m → ¬ Receives (r.op k) ch) :
    ((r.state m).chan ch).rxflag = true ∧
      ((∀ k b, n ≤ k → k < m → r.op k ≠ .rxarr ch b) →
        ((r.state m).chan ch).rxbuf = ((r.state n).chan ch).rxbuf) := by
  induction m, hnm using Nat.le_induction with
  | base => exact ⟨hflag, fun _ => rfl⟩
  | succ m hnm ih =>
    obtain ⟨hflag', hbuf⟩ := ih fun k hk hkm => hno k hk (by omega)
    obtain ⟨hflag'', hbuf'⟩ := exec_keeps_pending (hreset m) (hlegal m) (hno m hnm (by omega)) hflag'
    exact ⟨hflag'', fun hnone => (hbuf' fun b => hnone m b hnm (by omega)).trans
      (hbuf fun k b hk hkm => hnone k b hk (by omega))⟩

/-- Under fairness some receive handler of a pending channel runs. -/
theorem exists_received (hserves : r.servesReceive ch) (hruns : ∀ n, (r.state n).halt = false) {n : Nat}
    (hflag : ((r.state n).chan ch).rxflag = true) : ∃ m, n ≤ m ∧ Receives (r.op m) ch := by
  by_contra hnever
  have hpending (m : Nat) (hm : n ≤ m) : rxRequest (r.state m) ch = true :=
    rxRequest_of_pending (hruns m) (pending_until_received hlegal hreset hm hflag
      fun k hk _ hrec => hnever ⟨k, hk, hrec⟩).1
  exact hnever (hserves n hpending)

end reception

/-- Settles O50: the first receive handler of the channel finds the byte pending. -/
theorem everyPendingByteIsRead : Obligations.EveryPendingByteIsRead := by
  classical
  intro r ch hlegal hserves hruns hreset n hflag
  have hex := exists_received hlegal hreset hserves hruns hflag
  obtain ⟨hnm, hrec⟩ := Nat.find_spec hex
  have hbefore (k : Nat) (hk : n ≤ k) (hlt : k < Nat.find hex) : ¬ Receives (r.op k) ch := fun hrec' =>
    Nat.find_min hex hlt ⟨hk, hrec'⟩
  obtain ⟨hpending, hbuf⟩ := pending_until_received hlegal hreset hnm hflag hbefore
  exact ⟨_, hnm, hrec, hpending, exec_receives_clears (hlegal _) hrec (hruns _) hpending, hbuf⟩

end Sys2Proof.Machine

/-! How operations reach the block, and what its pins show: the step, the command port, the arbiter and the clock edge
(10_state R35, 30_encoding R83 to R85, 60 R168). -/

namespace Sys2Proof.Machine

/-! ### Words -/

section words
variable {w : Word} {i : Instr} (h : decode w = .op i) (s : State)
include h

theorem runWord_legal : runWord w s = exec i s := by
  simp only [runWord, h]

/-- The command port executes the operations of the host's context. -/
theorem runPortWord_taken (hi : Context.mainline.starts i = true) : runPortWord w s = exec i s := by
  simp only [runPortWord, h, hi, if_true]

/-- The command port answers ILLEGAL to any other operation (30_encoding R83). -/
theorem runPortWord_refused (hi : Context.mainline.starts i = false) :
    runPortWord w s = .next (s.respond .illegal) := by
  simp only [runPortWord, h, hi, Bool.false_eq_true, if_false, answer]

end words

theorem eq_op_of_instr?_eq_some {x : Decoded} {i : Instr} (h : x.instr? = some i) : x = .op i := by
  cases x with
  | op j => exact congrArg Decoded.op (Option.some.inj h)
  | illegal why => cases h

theorem decode_of_decodeTableWord {n : Nat} {i : Instr} (h : decodeTableWord 16 n = some i) :
    ∃ w, tableWord? 16 n = some w ∧ decode w = .op i :=
  ⟨BitVec.ofNat 16 (n % 2 ^ 16), if_pos le_rfl, eq_op_of_instr?_eq_some h⟩

/-- Settles O6: a placed word is the first item of the input stream, and taking it gives the stream back. -/
theorem stepRunsDecodedWord : Obligations.StepRunsDecodedWord := by
  refine ⟨fun s w rest i hin _ hdec => (step_word hin).trans (runWord_legal hdec _), fun s n i h => ?_⟩
  obtain ⟨w, hw, hdec⟩ := decode_of_decodeTableWord h
  have hplaced : s.withFetchWord 16 n = s.setInputs (.word w :: s.inputs) := by
    simp only [State.withFetchWord, hw]
  rw [hplaced, step_word rfl, runWord_legal hdec]
  rfl

/-- Settles O56: the operations of the first clause are those the host's context starts. -/
theorem commandPortTakesHostOperationsOnly : Obligations.CommandPortTakesHostOperationsOnly := by
  refine fun w i s hdec => ⟨fun hhost => runPortWord_taken hdec s ?_, fun hother => runPortWord_refused hdec s ?_⟩
  · rcases hhost with ⟨ch, b, rfl | rfl | rfl | rfl⟩ | rfl | rfl <;> rfl
  · rcases hother with ⟨ch, b, rfl | rfl | rfl | rfl⟩ | rfl | rfl <;> rfl

/-! ### The status byte and the state after reset -/

/-- Settles O51: the byte is its bits; after reset the queue is empty and not full, since the capacity is positive. -/
theorem statusByteShowsTheState : Obligations.StatusByteShowsTheState := by
  refine ⟨fun s ch => ?_, fun p ch => ?_⟩
  · simp only [status, empty, full, BitVec.getLsbD_append]
    simp
  · have hfull : full (State.resetOf p) ch = false := by
      have := Params_C_pos p
      simp [full, Channel.resetWith]
      omega
    have hempty : empty (State.resetOf p) ch = true := by simp [empty, Channel.resetWith]
    simp only [status, hfull, hempty, resetOf_chan, resetOf_halt]
    rfl

theorem enabledHandlers_eq_nil {s : State} (htx : ∀ ch, txRequest s ch = false) (hrx : ∀ ch, rxRequest s ch = false) :
    enabledHandlers s = [] := by
  refine List.eq_nil_iff_forall_not_mem.2 fun i hi => ?_
  cases hvec : s.params.sharedVec with
  | true => simp [mem_enabledHandlers_shared hvec, irqTx, irqRx, htx, hrx] at hi
  | false => simp [mem_enabledHandlers_dedicated hvec, htx, hrx] at hi

theorem grants_eq_nil_iff (s : State) (w : Option Word) : grants s w = [] ↔ enabledHandlers s = [] ∧ w = none := by
  simp [grants]

theorem arbitrate_eq_none_iff (e : Edge) (s : State) :
    arbitrate e s = none ↔ enabledHandlers s = [] ∧ presentedWord e s = none := by
  refine ⟨arbitrate_none, fun hnone => ?_⟩
  rw [arbitrate, (grants_eq_nil_iff s _).2 hnone]
  rfl

/-- A quiet edge at which nothing is possible changes nothing of the tuple. -/
theorem clockEdge_quiet {s : State} (g : Nat) (hidle : enabledHandlers s = []) (hheld : s.cmdHeld = none) :
    ∃ t, clockEdge (Edge.quiet g) s = .next t ∧ SameTuple s t := by
  have hpresented : presentedWord (Edge.quiet g) s = none := by simp [presentedWord, hheld, Edge.quiet]
  have harb := (arbitrate_eq_none_iff (Edge.quiet g) s).2 ⟨hidle, hpresented⟩
  have hgranted : resetGranted (Edge.quiet g) s = false := by simp [resetGranted, harb]
  have hop : edgeOperation (Edge.quiet g) s = .next (s.setPort none none) := by
    simp only [edgeOperation, harb, hpresented]
  have hrst : (Edge.quiet g).rst = false := rfl
  have hevents : (Edge.quiet g).events = [] := rfl
  refine ⟨s.setPort none none, ?_, rfl, rfl, rfl⟩
  simp only [clockEdge, hrst, hgranted, hop, andThen, earlyCompletion, Edge.quiet_txDone, hevents, execAll,
    Bool.false_and, Bool.false_eq_true, if_false]

/-- Settles O54: after reset no channel requests, so the edge of an empty input stream finds nothing possible. -/
theorem resetStateIsQuiet : Obligations.ResetStateIsQuiet := by
  intro p
  have htx (ch : Chan) : txRequest (State.resetOf p) ch = false := by simp [txRequest, Channel.resetWith]
  have hrx (ch : Chan) : rxRequest (State.resetOf p) ch = false := by simp [rxRequest, Channel.resetWith]
  refine ⟨fun ch => ⟨?_, ?_, ?_, ?_, ?_⟩, rfl, by simp [irqTx, htx], by simp [irqRx, hrx], ?_⟩
  · exact (txState_eq_idle_iff _ _).2 (by simp [Channel.resetWith])
  · simp [Channel.resetWith, Config.txflagReset]
  · simp [Channel.resetWith]
  · simp [Channel.resetWith]
  · simp [Channel.resetWith]
  · obtain ⟨t, ht, hsame⟩ := clockEdge_quiet (s := (State.resetOf p).setFree ((State.resetOf p).free + 1))
      (Config.arbiterChoice (State.resetOf p).free) (enabledHandlers_eq_nil htx hrx) rfl
    exact ⟨t, ht, hsame⟩

/-! ### Handlers and the arbiter -/

/-- An enabled handler is one whose request is up, in either wiring (60 R163, R167). -/
theorem request_of_mem_enabledHandlers {s : State} {i : Instr} (h : i ∈ enabledHandlers s) :
    (i = .txvec ∧ irqTx s = true) ∨ (i = .rxvec ∧ irqRx s = true) ∨
      ∃ ch, (i = .txc ch ∧ txRequest s ch = true) ∨ (i = .rxd ch ∧ rxRequest s ch = true) := by
  cases hvec : s.params.sharedVec with
  | true => exact ((mem_enabledHandlers_shared hvec).1 h).imp_right .inl
  | false => exact .inr (.inr ((mem_enabledHandlers_dedicated hvec).1 h))

theorem running_of_mem_enabledHandlers {s : State} {i : Instr} (h : i ∈ enabledHandlers s) : s.halt = false := by
  by_contra hhalt
  simp [enabledHandlers_halted (by simpa using hhalt)] at h

/-- Settles O57: an enabled handler's request is up, and then it is neither NOTREADY nor HALTED. -/
theorem onlyEnabledHandlersStart : Obligations.OnlyEnabledHandlersStart := by
  intro s t i hi h
  have hrun := running_of_mem_enabledHandlers hi
  refine ⟨hrun, ?_⟩
  rcases request_of_mem_enabledHandlers hi with ⟨rfl, hreq⟩ | ⟨rfl, hreq⟩ | ⟨ch, ⟨rfl, hreq⟩ | ⟨rfl, hreq⟩⟩
  · rcases exec_txvec_cases h with ⟨hhalt, -⟩ | ⟨-, hno, -⟩ | ⟨-, -, u, v, -, -, rfl⟩
    · simp [hrun] at hhalt
    · simp [hreq] at hno
    · simp
  · rcases exec_rxvec_cases h with ⟨hhalt, -⟩ | ⟨-, hno, -⟩ | ⟨-, -, u, r, v, a, hu, hv, rfl⟩
    · simp [hrun] at hhalt
    · simp [hreq] at hno
    · rcases dispatchIfPending_response (dispatchIfPending_response (.inl rfl) hu) hv with rfl | rfl <;> simp
  · rcases exec_txc_outcomes h with ⟨hhalt, -⟩ | ⟨-, hno, -⟩ |
      ⟨-, -, r, y, ⟨-, rfl, -⟩ | ⟨v, -, -, -, rfl, -⟩, rfl⟩
    · simp [hrun] at hhalt
    · simp [hreq] at hno
    · simp
    · simp
  · rcases exec_rxd_cases h with ⟨hhalt, -⟩ | ⟨-, hno, -⟩ | ⟨-, -, u, r, hx, rfl⟩
    · simp [hrun] at hhalt
    · simp [rxRequest_iff, hno] at hreq
    · rcases xmit_response hx with rfl | rfl <;> simp

/-- Every possible choice is the arbiter's at some value of the edge's `grant` (60 R168). -/
theorem mem_grants_iff (e : Edge) (s : State) (x : Grant) :
    x ∈ grants s (presentedWord e s) ↔ ∃ g, arbitrate { e with grant := g } s = some x := by
  constructor
  · intro hx
    obtain ⟨g, hg⟩ := List.mem_iff_getElem?.1 hx
    have hlt : g < (grants s (presentedWord e s)).length := (List.getElem?_eq_some_iff.1 hg).1
    exact ⟨g, (congrArg _ (Nat.mod_eq_of_lt hlt)).trans hg⟩
  · rintro ⟨g, hg⟩
    exact List.mem_iff_getElem?.2 ⟨_, hg⟩

theorem handler_mem_grants_iff (s : State) (w : Option Word) (i : Instr) :
    .handler i ∈ grants s w ↔ i ∈ enabledHandlers s := by
  simp [grants]

theorem host_mem_grants_iff (s : State) (v : Option Word) (w : Word) : .host w ∈ grants s v ↔ v = some w := by
  simp [grants]

/-- Settles O60: the list the arbiter chooses from holds the enabled handlers and the presented word. -/
theorem arbiterAdmitsEveryChoice : Obligations.ArbiterAdmitsEveryChoice := fun e s =>
  ⟨fun i => (handler_mem_grants_iff s _ i).symm.trans (mem_grants_iff e s _),
    fun w => (host_mem_grants_iff s _ w).symm.trans (mem_grants_iff e s _), arbitrate_eq_none_iff e s⟩

/-! ### The clock edge -/

theorem execAll_surroundings {is : List Instr} {s t : State} (h : execAll is s = .next t) : SameSurroundings s t := by
  induction is generalizing s with
  | nil =>
    cases h
    exact ⟨rfl, rfl, rfl, rfl⟩
  | cons i rest ih =>
    obtain ⟨u, hu, ht⟩ := andThen_next h
    obtain ⟨hp, hin, hcmd, hpins⟩ := exec_surroundings hu
    obtain ⟨hp', hin', hcmd', hpins'⟩ := ih ht
    exact ⟨hp.trans hp', hin.trans hin', hcmd.trans hcmd', hpins.trans hpins'⟩

/-- At an edge without `rst` the command port is ready when the arbiter chose its word (30_encoding R83). -/
theorem cmdReady_iff {e : Edge} {s : State} (hrst : e.rst = false) :
    cmdReady e s = true ↔ ∃ w, arbitrate e s = some (.host w) := by
  rw [cmdReady, hrst]
  split <;> simp_all

/-- The operation of an edge leaves the presented word presented unless it was that word's (30_encoding R84). -/
theorem edgeOperation_cmdHeld {e : Edge} {s t : State} (hrst : e.rst = false) (h : edgeOperation e s = .next t) :
    t.cmdHeld = if cmdReady e s = true then none else presentedWord e s := by
  unfold edgeOperation at h
  split at h
  case h_1 harb =>
    obtain ⟨u, -, hu⟩ := andThen_next h
    cases hu
    simp [cmdReady_iff hrst, harb]
  case h_2 harb =>
    obtain ⟨u, -, hu⟩ := andThen_next h
    cases hu
    simp [cmdReady_iff hrst, harb]
  case h_3 harb =>
    cases h
    simp [cmdReady_iff hrst, harb]

/-- Settles O59: an edge's operation decides, and neither pulses nor a reset touch the presented word. -/
theorem ungrantedWordStaysPresented : Obligations.UngrantedWordStaysPresented := by
  intro e s t h
  rcases clockEdge_cases h with ⟨hrst, u, -, rfl⟩ | ⟨hrst, -, hop⟩ | ⟨hrst, -, u, hop, -, hevents⟩
  · simp [cmdReady, hrst]
  · exact edgeOperation_cmdHeld hrst hop
  · obtain ⟨-, -, hheld, -⟩ := execAll_surroundings hevents
    rw [← hheld, edgeOperation_cmdHeld hrst hop]

/-- The machines agree on all that the environment's operations read and write of the tuple. -/
structure SameForEvents (s t : State) : Prop where
  chan : ∀ ch, s.chan ch = t.chan ch
  halt : s.halt = t.halt
  free : s.free = t.free

theorem SameForEvents.sameTuple {s t : State} (h : SameForEvents s t) : SameTuple t s :=
  ⟨(h.chan .c0).symm, (h.chan .c1).symm, h.halt.symm⟩

theorem SameForEvents.setChan {s t : State} (h : SameForEvents s t) (ch : Chan) (x : Channel) :
    SameForEvents (s.setChan ch x) (t.setChan ch x) :=
  ⟨fun d => by rw [chan_setChan, chan_setChan, h.chan], by simpa using h.halt, by simpa using h.free⟩

theorem SameForEvents.respond {s t : State} (h : SameForEvents s t) (a b : Response) :
    SameForEvents (s.respond a) (t.respond b) :=
  ⟨by simpa using h.chan, h.halt, h.free⟩

theorem SameForEvents.setFree {s t : State} (h : SameForEvents s t) (n : Nat) :
    SameForEvents (s.setFree n) (t.setFree n) :=
  ⟨by simpa using h.chan, h.halt, rfl⟩

/-- An operation of the environment. -/
def IsEvent (i : Instr) : Prop := (∃ ch, i = .txdone ch) ∨ ∃ ch b, i = .rxarr ch b

/-- The environment's operations do the same to machines that differ outside the tuple. -/
theorem exec_event_same {i : Instr} (hi : IsEvent i) {s t s' : State} (h : SameForEvents s t)
    (hs : exec i s = .next s') : ∃ t', exec i t = .next t' ∧ SameForEvents s' t' := by
  rcases hi with ⟨ch, rfl⟩ | ⟨ch, b, rfl⟩
  · refine ⟨_, rfl, ?_⟩
    rw [exec_txdone_next hs, h.chan]
    exact (h.setChan ch _).respond _ _
  · simp only [exec, execRxarr, h.chan, h.free] at hs ⊢
    split at hs
    case isTrue hflag =>
      rw [if_pos hflag, answer_next hs]
      exact ⟨_, rfl, ((h.setChan ch _).setFree _).respond _ _⟩
    case isFalse hflag =>
      rw [if_neg hflag, answer_next hs]
      exact ⟨_, rfl, (h.setChan ch _).respond _ _⟩

theorem execAll_events_same {is : List Instr} (his : ∀ i ∈ is, IsEvent i) {s t s' : State} (h : SameForEvents s t)
    (hs : execAll is s = .next s') : ∃ t', execAll is t = .next t' ∧ SameForEvents s' t' := by
  induction is generalizing s t with
  | nil =>
    cases hs
    exact ⟨t, rfl, h⟩
  | cons i rest ih =>
    obtain ⟨u, hu, hrest⟩ := andThen_next hs
    obtain ⟨v, hv, hsame⟩ := exec_event_same (his i List.mem_cons_self) h hu
    obtain ⟨t', ht', hsame'⟩ := ih (fun j hj => his j (List.mem_cons_of_mem i hj)) hsame hrest
    exact ⟨t', (execAll_cons hv).trans ht', hsame'⟩

/-- The pulses of an edge are the environment's operations (30_encoding R85). -/
theorem isEvent_of_mem_events {e : Edge} {i : Instr} (h : i ∈ e.events) : IsEvent i := by
  simp only [Edge.events, List.mem_append, List.mem_ite_nil_right, List.mem_singleton, Option.mem_toList,
    Option.map_eq_some_iff] at h
  rcases h with ((⟨-, rfl⟩ | ⟨-, rfl⟩) | ⟨b, -, rfl⟩) | ⟨b, -, rfl⟩
  · exact .inl ⟨_, rfl⟩
  · exact .inl ⟨_, rfl⟩
  · exact .inr ⟨_, _, rfl⟩
  · exact .inr ⟨_, _, rfl⟩

/-- Where the operation of an edge comes from, as a list of one operation or none. -/
def EdgeChoice (e : Edge) (s : State) (op : List Instr) : Prop :=
  (∃ i ∈ enabledHandlers s, arbitrate e s = some (.handler i) ∧ op = [i]) ∨
  (∃ w i, presentedWord e s = some w ∧ arbitrate e s = some (.host w) ∧ decode w = .op i ∧
    Context.mainline.starts i = true ∧ op = [i]) ∨
  (∃ w, presentedWord e s = some w ∧ arbitrate e s = some (.host w) ∧
    (∀ i, decode w = .op i → Context.mainline.starts i = false) ∧ op = []) ∨
  (enabledHandlers s = [] ∧ presentedWord e s = none ∧ op = [])

theorem EdgeChoice.length_le {e : Edge} {s : State} {op : List Instr} (h : EdgeChoice e s op) : op.length ≤ 1 := by
  rcases h with ⟨i, -, -, rfl⟩ | ⟨w, i, -, -, -, -, rfl⟩ | ⟨w, -, -, -, rfl⟩ | ⟨-, -, rfl⟩ <;> simp

theorem handler_of_arbitrate {e : Edge} {s : State} {i : Instr} (h : arbitrate e s = some (.handler i)) :
    i ∈ enabledHandlers s := by
  rcases arbitrate_cases h with ⟨j, hj, hij⟩ | ⟨w, -, hw⟩
  · cases hij
    exact hj
  · cases hw

theorem presented_of_arbitrate {e : Edge} {s : State} {w : Word} (h : arbitrate e s = some (.host w)) :
    presentedWord e s = some w := by
  rcases arbitrate_cases h with ⟨j, -, hj⟩ | ⟨v, hv, hw⟩
  · cases hj
  · cases hw
    exact hv

/-- What a word on the command port does: its operation, or nothing but the answer ILLEGAL. -/
theorem runPortWord_cases {w : Word} {s t : State} (h : runPortWord w s = .next t) :
    (∃ i, decode w = .op i ∧ Context.mainline.starts i = true ∧ exec i s = .next t) ∨
    ((∀ i, decode w = .op i → Context.mainline.starts i = false) ∧ t = s.respond .illegal) := by
  cases hdec : decode w with
  | op i =>
    cases hi : Context.mainline.starts i with
    | true => exact .inl ⟨i, rfl, hi, (runPortWord_taken hdec s hi).symm.trans h⟩
    | false =>
      rw [runPortWord_refused hdec s hi] at h
      cases h
      refine .inr ⟨fun j hj => ?_, rfl⟩
      cases hj
      exact hi
  | illegal why =>
    rw [runPortWord_illegal hdec s] at h
    cases h
    exact .inr ⟨by simp, rfl⟩

/-- The operation of an edge is one operation or none, as the arbiter chose. -/
theorem edgeOperation_choice {e : Edge} {s t : State} (h : edgeOperation e s = .next t) :
    ∃ op u, EdgeChoice e s op ∧ execAll op s = .next u ∧ SameForEvents t u := by
  unfold edgeOperation at h
  split at h
  case h_1 i harb =>
    obtain ⟨u, hu, ht⟩ := andThen_next h
    cases ht
    exact ⟨[i], u, .inl ⟨i, handler_of_arbitrate harb, harb, rfl⟩, execAll_cons hu, fun ch => by simp, rfl, rfl⟩
  case h_2 w harb =>
    obtain ⟨u, hu, ht⟩ := andThen_next h
    cases ht
    have hpresented := presented_of_arbitrate harb
    rcases runPortWord_cases hu with ⟨i, hdec, hi, hexec⟩ | ⟨hrefused, rfl⟩
    · exact ⟨[i], u, .inr (.inl ⟨w, i, hpresented, harb, hdec, hi, rfl⟩), execAll_cons hexec, fun ch => by simp, rfl,
        rfl⟩
    · exact ⟨[], s, .inr (.inr (.inl ⟨w, hpresented, harb, hrefused, rfl⟩)), rfl, fun ch => by simp, rfl, rfl⟩
  case h_3 harb =>
    cases h
    obtain ⟨hidle, hpresented⟩ := arbitrate_none harb
    exact ⟨[], s, .inr (.inr (.inr ⟨hidle, hpresented, rfl⟩)), rfl, fun ch => by simp, rfl, rfl⟩

/-- The operation of an edge is RESET exactly when the granted word is RESET: no handler is. -/
theorem EdgeChoice.eq_reset_iff {e : Edge} {s : State} {op : List Instr} (h : EdgeChoice e s op) :
    op = [.reset] ↔ resetGranted e s = true := by
  have hno : .reset ∉ enabledHandlers s := fun hmem => by
    rcases request_of_mem_enabledHandlers hmem with ⟨hi, -⟩ | ⟨hi, -⟩ | ⟨ch, ⟨hi, -⟩ | ⟨hi, -⟩⟩ <;> cases hi
  rcases h with ⟨i, hi, harb, rfl⟩ | ⟨w, i, -, harb, hdec, -, rfl⟩ | ⟨w, -, harb, hrefused, rfl⟩ | ⟨hidle, hnone, rfl⟩
  · have hne : i ≠ .reset := fun hreset => hno (hreset ▸ hi)
    simp [resetGranted, harb, hne]
  · simp [resetGranted, harb, hdec]
  · have hne : decode w ≠ .op .reset := fun hdec => by simpa [Context.starts] using hrefused _ hdec
    simp [resetGranted, harb, hne]
  · simp [resetGranted, (arbitrate_eq_none_iff e s).2 ⟨hidle, hnone⟩]

/-- Settles O58: the operation as the arbiter chose, and then the pulses, which read nothing the port writes. -/
theorem edgeIsAShortRun : Obligations.EdgeIsAShortRun := by
  refine fun e s => ⟨fun hrst => ?_, fun hrst t h => ?_⟩
  · obtain ⟨u, hu⟩ : ∃ u, exec .reset s = .next u := ⟨_, rfl⟩
    exact ⟨u.setPort (presentedWord e s) none, u, by rw [clockEdge, if_pos hrst, hu, andThen], hu, rfl, rfl, rfl⟩
  · rcases clockEdge_cases h with ⟨hrst', -⟩ | ⟨-, hreset, hop⟩ | ⟨-, hreset, u, hop, -, hevents⟩
    · simp [hrst] at hrst'
    · obtain ⟨op, v, hchoice, hv, hsame⟩ := edgeOperation_choice hop
      refine ⟨op, v, hchoice.length_le, hchoice, ?_, hsame.sameTuple⟩
      rwa [if_pos (hchoice.eq_reset_iff.2 hreset), List.append_nil]
    · obtain ⟨op, v, hchoice, hv, hsame⟩ := edgeOperation_choice hop
      obtain ⟨w, hw, hsame'⟩ := execAll_events_same (fun _ => isEvent_of_mem_events) hsame hevents
      have hop' : op ≠ [.reset] := fun hr => by simp [hchoice.eq_reset_iff.1 hr] at hreset
      refine ⟨op, w, hchoice.length_le, hchoice, ?_, hsame'.sameTuple⟩
      rw [if_neg hop', execAll_append hv, hw]

end Sys2Proof.Machine
